-- ==== Sys2Proof/Word.lean ====
section
/-! DEFINITION. The word types of the block: bytes, 32-bit registers and 32-bit memory addresses. -/

namespace Sys2Proof

/-- One byte of memory or of a pixel group (20_memory.md R70, R72). -/
abbrev Byte := BitVec 8

/-- A host-visible register, 32 bits wide (00_scope.md R12). -/
abbrev Word := BitVec 32

/-- A memory address. `ADDR_W = 32` (00_scope.md R11, log 2), so address sums wrap modulo `2^32`
(20_memory.md R83). -/
abbrev Addr := BitVec 32

/-- The size of the memory space in bytes, `2^ADDR_W` (20_memory.md R70). -/
abbrev addrSpace : Nat := 4294967296

end Sys2Proof
end

