-- ==== Sys2Proof/Config.lean ====
section
/-! DEFINITION. What an implementation fixes: the build parameters of 00_scope.md section 3, the
constants of the register map, and the free values that the spec leaves open. -/

namespace Sys2Proof

/-- The build parameter `STRATEGY` (00_scope.md R9). -/
inductive Strategy where
  | portable
  | vector
deriving DecidableEq, Repr

/-- The unit size `G` in source bytes: one 4-byte group or one 32-byte block (00_scope.md R10). -/
def Strategy.unitBytes : Strategy → Nat
  | .portable => 4
  | .vector => 32

/-- `CAPS.VEC`: true exactly on a VECTOR build (10_state.md R31). -/
def Strategy.isVector : Strategy → Bool
  | .portable => false
  | .vector => true

/-- The constant of the `ID` register (10_state.md R30). -/
def Config.idValue : Word := 0x59550420#32

/-- The constant of the `CAPS` register, by build: VEC in bit 0, UNIT_BYTES = `G` in bits 15:8,
ADDR_W = 32 in bits 23:16, the rest 0 (10_state.md R31). -/
def Config.capsValue (st : Strategy) : Word :=
  0#8 ++ 32#8 ++ BitVec.ofNat 8 st.unitBytes ++ 0#7 ++ BitVec.ofBool st.isVector

/-- What a byte of memory that nothing has written reads as. DESIGN CHOICE (log 4): the spec gives the
memory no power-on contents. -/
def Config.unwrittenByte : Byte := 0#8

/-- The build that `State.reset` describes. DESIGN CHOICE (log 1): the spec leaves STRATEGY a parameter. -/
def Config.resetStrategy : Strategy := .portable

/-- The platform that `State.reset` describes. DESIGN CHOICE (log 5): the spec leaves COHERENT open. -/
def Config.resetCoherent : Bool := true

/-- A byte the spec leaves undefined, in a refused run (00_scope.md R15, 60_exceptions.md R236, R237). A free value
(log 8): the arguments number the draw, the thing that is free, and the place in it. -/
opaque Config.undefinedByte : Nat → Nat → Nat → Byte

/-- A word the spec leaves undefined: what a register holds in a refused run (00_scope.md R15, 60_exceptions.md R236). A
free value (log 8): the first argument numbers the draw, the second is the register. -/
opaque Config.undefinedWord : Nat → Nat → Word

/-- The writes that a turn of a refused run makes, anywhere in memory (60_exceptions.md R236). A free value
(log 8): how many there are, their addresses and their bytes; each has a first byte and further ones. -/
opaque Config.undefinedWrites : Nat → List (Addr × Byte × List Byte)

/-- The free draw of 20_memory.md R88: whether a host read of an output byte while BUSY returns the value
the conversion writes (true) or the value at START (false). The arguments number the draw and give the
address (log 15). -/
opaque Config.raceReadsNew : Nat → Nat → Bool

end Sys2Proof
end

