-- ==== Sys2Proof/Syntax.lean ====
section
/-! DEFINITION. The instructions: one constructor for each row of spec/opcode_table.json. -/

namespace Sys2Proof

/-- The instructions of the block, in the table's four formats (30_encoding.md R100).

F-REG operands (R103): `lo` is `OFFSET[1:0]`, which the block ignores (43_host_interface.md R201);
`data` is `DATA[31:0]`, the value on `reg_wdata` of a write, which a read ignores; `low` of a reserved
offset is `OFFSET[5:0]`. F-STEP operands (R105, R107) are the selector bits the row marks `x`. -/
inductive Instr where
  /-- NOP: write of 0 to CMD (43_host_interface.md R205). -/
  | nop (lo : BitVec 2)
  /-- START: write of 1 to CMD (R206). -/
  | start (lo : BitVec 2)
  /-- CLEAR: write of 2 to CMD (R207). -/
  | clear (lo : BitVec 2)
  /-- IGNORED_OP: write of 3 to CMD (R208). -/
  | ignoredOp (lo : BitVec 2)
  /-- IGNORED_RSV: write to CMD of a word with a nonzero RSV field (R208). -/
  | ignoredRsv (lo : BitVec 2) (data : Word)
  /-- WR.ID: write, ignored (R202). -/
  | wrId (lo : BitVec 2) (data : Word)
  /-- RD.ID: read (10_state.md R30). -/
  | rdId (lo : BitVec 2) (data : Word)
  /-- WR.CAPS: write, ignored (R202). -/
  | wrCaps (lo : BitVec 2) (data : Word)
  /-- RD.CAPS: read (10_state.md R31). -/
  | rdCaps (lo : BitVec 2) (data : Word)
  /-- WR.CTRL: write (10_state.md R32). -/
  | wrCtrl (lo : BitVec 2) (data : Word)
  /-- RD.CTRL: read (10_state.md R32). -/
  | rdCtrl (lo : BitVec 2) (data : Word)
  /-- RD.CMD: read (10_state.md R41). -/
  | rdCmd (lo : BitVec 2) (data : Word)
  /-- WR.STATUS: write, ignored (R202). -/
  | wrStatus (lo : BitVec 2) (data : Word)
  /-- RD.STATUS: read (10_state.md R33). -/
  | rdStatus (lo : BitVec 2) (data : Word)
  /-- WR.SRC_BASE: write (10_state.md R42). -/
  | wrSrcBase (lo : BitVec 2) (data : Word)
  /-- RD.SRC_BASE: read (10_state.md R42). -/
  | rdSrcBase (lo : BitVec 2) (data : Word)
  /-- WR.LUMA_BASE: write (10_state.md R43). -/
  | wrLumaBase (lo : BitVec 2) (data : Word)
  /-- RD.LUMA_BASE: read (10_state.md R43). -/
  | rdLumaBase (lo : BitVec 2) (data : Word)
  /-- WR.U_BASE: write (10_state.md R44). -/
  | wrUBase (lo : BitVec 2) (data : Word)
  /-- RD.U_BASE: read (10_state.md R44). -/
  | rdUBase (lo : BitVec 2) (data : Word)
  /-- WR.V_BASE: write (10_state.md R45). -/
  | wrVBase (lo : BitVec 2) (data : Word)
  /-- RD.V_BASE: read (10_state.md R45). -/
  | rdVBase (lo : BitVec 2) (data : Word)
  /-- WR.STRIDE: write (10_state.md R46). -/
  | wrStride (lo : BitVec 2) (data : Word)
  /-- RD.STRIDE: read (10_state.md R46). -/
  | rdStride (lo : BitVec 2) (data : Word)
  /-- WR.HEIGHT: write (10_state.md R47). -/
  | wrHeight (lo : BitVec 2) (data : Word)
  /-- RD.HEIGHT: read (10_state.md R47). -/
  | rdHeight (lo : BitVec 2) (data : Word)
  /-- WR.SRC_PTR: write, ignored (R202). -/
  | wrSrcPtr (lo : BitVec 2) (data : Word)
  /-- RD.SRC_PTR: read (10_state.md R48). -/
  | rdSrcPtr (lo : BitVec 2) (data : Word)
  /-- WR.LUMA_PTR: write, ignored (R202). -/
  | wrLumaPtr (lo : BitVec 2) (data : Word)
  /-- RD.LUMA_PTR: read (10_state.md R49). -/
  | rdLumaPtr (lo : BitVec 2) (data : Word)
  /-- WR.U_PTR: write, ignored (R202). -/
  | wrUPtr (lo : BitVec 2) (data : Word)
  /-- RD.U_PTR: read (10_state.md R50). -/
  | rdUPtr (lo : BitVec 2) (data : Word)
  /-- WR.V_PTR: write, ignored (R202). -/
  | wrVPtr (lo : BitVec 2) (data : Word)
  /-- RD.V_PTR: read (10_state.md R51). -/
  | rdVPtr (lo : BitVec 2) (data : Word)
  /-- WR.PAIR_CNT: write, ignored (R202). -/
  | wrPairCnt (lo : BitVec 2) (data : Word)
  /-- RD.PAIR_CNT: read (10_state.md R52). -/
  | rdPairCnt (lo : BitVec 2) (data : Word)
  /-- WR.RSV at the reserved offsets 0x40-0x7F: ignored (10_state.md R28). -/
  | wrRsv40 (low : BitVec 6) (data : Word)
  /-- RD.RSV at the reserved offsets 0x40-0x7F: reads 0 (10_state.md R28). -/
  | rdRsv40 (low : BitVec 6) (data : Word)
  /-- WR.RSV at the reserved offsets 0x80-0xBF: ignored (10_state.md R28). -/
  | wrRsv80 (low : BitVec 6) (data : Word)
  /-- RD.RSV at the reserved offsets 0x80-0xBF: reads 0 (10_state.md R28). -/
  | rdRsv80 (low : BitVec 6) (data : Word)
  /-- WR.RSV at the reserved offsets 0xC0-0xFF: ignored (10_state.md R28). -/
  | wrRsvC0 (low : BitVec 6) (data : Word)
  /-- RD.RSV at the reserved offsets 0xC0-0xFF: reads 0 (10_state.md R28). -/
  | rdRsvC0 (low : BitVec 6) (data : Word)
  /-- ROW_IDLE: no row in progress (30_encoding.md R106). -/
  | rowIdle
  /-- ROW_EVEN: the even-row unpacker processes the row (40_even_row_unpacker.md R132). -/
  | rowEven
  /-- ROW_ODD: the odd-row unpacker processes the row (41_odd_row_unpacker.md R150). -/
  | rowOdd
  /-- ROW_RSV: never driven, treated as IDLE (30_encoding.md R106). -/
  | rowRsv
  /-- STEP_IDLE: the converter has no step (42_frame_iterator.md R179); END, PHASE and VEC are `x`. -/
  | stepIdle (endBit phase vec : Bool)
  /-- GROUP_EVEN (40_even_row_unpacker.md R131). -/
  | groupEven
  /-- BLOCK_EVEN (40_even_row_unpacker.md R133). -/
  | blockEven
  /-- GROUP_ODD (41_odd_row_unpacker.md R151). -/
  | groupOdd
  /-- BLOCK_ODD (41_odd_row_unpacker.md R152). -/
  | blockOdd
  /-- ROW_ADVANCE_EVEN (42_frame_iterator.md R176); VEC is `x`. -/
  | rowAdvanceEven (vec : Bool)
  /-- ROW_ADVANCE_ODD (42_frame_iterator.md R177); VEC is `x`. -/
  | rowAdvanceOdd (vec : Bool)
deriving DecidableEq, Repr

end Sys2Proof
end

