-- ==== Sys2Proof/WellFormed.lean ====
section
/-! DEFINITION. Which instruction terms stand for a word of the spec's encodings. -/

namespace Sys2Proof

/-- The RSV field of a command word, bits 31:2 (30_encoding.md R101). -/
def cmdRsv (data : Word) : BitVec 30 := data.extractLsb' 2 30

/-- The OP field of a command word, bits 1:0 (30_encoding.md R101). -/
def cmdOp (data : Word) : BitVec 2 := data.extractLsb' 0 2

/-- An instruction is well formed when some word encodes it. The operands of every constructor range over
whole bit fields, so the one check is IGNORED_RSV's: its word has a nonzero RSV field (30_encoding.md R101,
43_host_interface.md R208). -/
def Instr.wellFormed : Instr → Bool
  | .ignoredRsv _ data => cmdRsv data != 0
  | _ => true

end Sys2Proof
end

