-- ==== Sys2Proof/Decode.lean ====
section
/-! DEFINITION. The decoder and the encoder, from the tables of 30_encoding.md (R101 to R107). -/

namespace Sys2Proof

/-- A word of one of the formats the block decodes (30_encoding.md R100): each format has its own wires, so
the format of a word is known before it is decoded. F-CMD words are the DATA of F-REG writes to CMD. -/
inductive Encoded where
  /-- F-REG: bit 40 is W, bits 39:32 OFFSET, bits 31:0 DATA (R103). -/
  | reg (w : BitVec 41)
  /-- F-ROW: `row_op[1:0]` (R106). -/
  | row (op : BitVec 2)
  /-- F-STEP: BUSY, END, PHASE, VEC in bits 3 to 0 (R105). -/
  | step (sel : BitVec 4)
deriving DecidableEq, Repr

/-- The names of the formats that come as bytes. -/
inductive Format where
  | fReg
  | fRow
  | fStep
deriving DecidableEq, Repr

/-- Why bytes are not a word of a format. The block itself rejects no word (R108): these names are about the
bytes that are to hold one. -/
inductive DecodeError where
  /-- The bytes are not as many as the format takes (6 for F-REG, 1 for F-ROW and F-STEP). -/
  | wrongLength
  /-- A bit above the format's width is 1. -/
  | strayBits
  /-- No format has that many bits. -/
  | noSuchWidth
deriving DecidableEq, Repr

/-- An F-REG word from its fields: W, OFFSET, DATA (R103). -/
def fRegWord (w : BitVec 1) (offset : BitVec 8) (data : Word) : BitVec 41 := w ++ offset ++ data

/-- The OFFSET of the register at a word index, with the ignored low bits (R103, R104). -/
def regOffset (idx : BitVec 6) (lo : BitVec 2) : BitVec 8 := idx ++ lo

/-- `OFFSET[7:2]` of an F-REG word, the word index that chooses the register (R103). -/
def fRegIndex (w : BitVec 41) : BitVec 6 := w.extractLsb' 34 6

/-- `OFFSET[1:0]` of an F-REG word, ignored by the block (43_host_interface.md R201). -/
def fRegLow (w : BitVec 41) : BitVec 2 := w.extractLsb' 32 2

/-- DATA of an F-REG word (R103). -/
def fRegData (w : BitVec 41) : Word := w.extractLsb' 0 32

/-- W of an F-REG word: true for a write (R103). -/
def fRegWrite (w : BitVec 41) : Bool := w.getLsbD 40

/-- The command decode of R101, in its order: RSV first, then OP. -/
def decodeCmd (lo : BitVec 2) (data : Word) : Instr :=
  if cmdRsv data ≠ 0 then .ignoredRsv lo data
  else match (cmdOp data).toNat with
    | 0 => .nop lo
    | 1 => .start lo
    | 2 => .clear lo
    | _ => .ignoredOp lo

/-- `OFFSET[5:0]` of a reserved offset, from its word index and its low bits. -/
def rsvLow (idx : BitVec 6) (lo : BitVec 2) : BitVec 6 := idx.extractLsb' 0 4 ++ lo

/-- The W=1 column of the F-REG decode table (R104). -/
def decodeWrite (idx : BitVec 6) (lo : BitVec 2) (data : Word) : Instr :=
  match idx.toNat with
  | 0 => .wrId lo data
  | 1 => .wrCaps lo data
  | 2 => .wrCtrl lo data
  | 3 => decodeCmd lo data
  | 4 => .wrStatus lo data
  | 5 => .wrSrcBase lo data
  | 6 => .wrLumaBase lo data
  | 7 => .wrUBase lo data
  | 8 => .wrVBase lo data
  | 9 => .wrStride lo data
  | 10 => .wrHeight lo data
  | 11 => .wrSrcPtr lo data
  | 12 => .wrLumaPtr lo data
  | 13 => .wrUPtr lo data
  | 14 => .wrVPtr lo data
  | 15 => .wrPairCnt lo data
  | k =>
    if k < 32 then .wrRsv40 (rsvLow idx lo) data
    else if k < 48 then .wrRsv80 (rsvLow idx lo) data
    else .wrRsvC0 (rsvLow idx lo) data

/-- The W=0 column of the F-REG decode table (R104). -/
def decodeRead (idx : BitVec 6) (lo : BitVec 2) (data : Word) : Instr :=
  match idx.toNat with
  | 0 => .rdId lo data
  | 1 => .rdCaps lo data
  | 2 => .rdCtrl lo data
  | 3 => .rdCmd lo data
  | 4 => .rdStatus lo data
  | 5 => .rdSrcBase lo data
  | 6 => .rdLumaBase lo data
  | 7 => .rdUBase lo data
  | 8 => .rdVBase lo data
  | 9 => .rdStride lo data
  | 10 => .rdHeight lo data
  | 11 => .rdSrcPtr lo data
  | 12 => .rdLumaPtr lo data
  | 13 => .rdUPtr lo data
  | 14 => .rdVPtr lo data
  | 15 => .rdPairCnt lo data
  | k =>
    if k < 32 then .rdRsv40 (rsvLow idx lo) data
    else if k < 48 then .rdRsv80 (rsvLow idx lo) data
    else .rdRsvC0 (rsvLow idx lo) data

/-- F-REG decode: W picks the column, `OFFSET[7:2]` the row (R104). -/
def decodeReg (w : BitVec 41) : Instr :=
  if fRegWrite w then decodeWrite (fRegIndex w) (fRegLow w) (fRegData w)
  else decodeRead (fRegIndex w) (fRegLow w) (fRegData w)

/-- F-ROW decode (R106). -/
def decodeRow (op : BitVec 2) : Instr :=
  match op.toNat with
  | 0 => .rowIdle
  | 1 => .rowEven
  | 2 => .rowOdd
  | _ => .rowRsv

/-- F-STEP decode (R107): BUSY in bit 3, END in bit 2, PHASE in bit 1, VEC in bit 0. -/
def decodeStep (sel : BitVec 4) : Instr :=
  let endBit := sel.getLsbD 2
  let phase := sel.getLsbD 1
  let vec := sel.getLsbD 0
  if sel.getLsbD 3 then
    if endBit then (if phase then .rowAdvanceOdd vec else .rowAdvanceEven vec)
    else if phase then (if vec then .blockOdd else .groupOdd)
    else (if vec then .blockEven else .groupEven)
  else .stepIdle endBit phase vec

/-- The decoder. It is total: every word of every format has its row (R104, R106, R107, R108). -/
def decode : Encoded → Instr
  | .reg w => decodeReg w
  | .row op => decodeRow op
  | .step sel => decodeStep sel

/-- Bytes read as one number, the first byte least significant (the table's numbering of bits). -/
def bytesToNat : List Byte → Nat
  | [] => 0
  | b :: rest => b.toNat + 256 * bytesToNat rest

/-- Decoding of the bytes that hold a word of a format; total on any bytes, rejecting by name. -/
def decodeBytes (f : Format) (bytes : List Byte) : Except DecodeError Instr :=
  let n := bytesToNat bytes
  match f with
  | .fReg =>
    if bytes.length ≠ 6 then .error .wrongLength
    else if n < 2 ^ 41 then .ok (decode (.reg (BitVec.ofNat 41 n))) else .error .strayBits
  | .fRow =>
    if bytes.length ≠ 1 then .error .wrongLength
    else if n < 4 then .ok (decode (.row (BitVec.ofNat 2 n))) else .error .strayBits
  | .fStep =>
    if bytes.length ≠ 1 then .error .wrongLength
    else if n < 16 then .ok (decode (.step (BitVec.ofNat 4 n))) else .error .strayBits

/-- The format of a word of the opcode table by its width: 41 bits (6 bytes) are F-REG. F-ROW and F-STEP
words both take one byte, which does not say which of the two it is: 0 to 3 are read as F-ROW, the rest as
F-STEP. DESIGN CHOICE (log 14): on the block the two formats are on different wires. -/
def tableWord (nbits w : Nat) : Except DecodeError Encoded :=
  if nbits = 4 then
    if w < 16 then .ok (.step (BitVec.ofNat 4 w)) else .error .strayBits
  else if nbits ≤ 8 then
    if w < 4 then .ok (.row (BitVec.ofNat 2 w))
    else if w < 16 then .ok (.step (BitVec.ofNat 4 w))
    else .error .strayBits
  else if nbits = 41 ∨ nbits = 48 then
    if w < 2 ^ 41 then .ok (.reg (BitVec.ofNat 41 w)) else .error .strayBits
  else .error .noSuchWidth

/-- What the decoder reads from a word of the opcode table, numbered as the table numbers its bits. -/
def decodeTableWord (nbits w : Nat) : Option Instr :=
  match tableWord nbits w with
  | .ok e => some (decode e)
  | .error _ => none

/-- An F-REG write of the register at a word index. -/
def encodeWrite (idx : BitVec 6) (lo : BitVec 2) (data : Word) : Encoded :=
  .reg (fRegWord 1#1 (regOffset idx lo) data)

/-- An F-REG read of the register at a word index. -/
def encodeRead (idx : BitVec 6) (lo : BitVec 2) (data : Word) : Encoded :=
  .reg (fRegWord 0#1 (regOffset idx lo) data)

/-- The encoder: the word of an instruction, from the same tables (R101, R104, R106, R107). -/
def encode : Instr → Encoded
  | .nop lo => encodeWrite 0x03#6 lo 0x00000000#32
  | .start lo => encodeWrite 0x03#6 lo 0x00000001#32
  | .clear lo => encodeWrite 0x03#6 lo 0x00000002#32
  | .ignoredOp lo => encodeWrite 0x03#6 lo 0x00000003#32
  | .ignoredRsv lo data => encodeWrite 0x03#6 lo data
  | .wrId lo data => encodeWrite 0x00#6 lo data
  | .rdId lo data => encodeRead 0x00#6 lo data
  | .wrCaps lo data => encodeWrite 0x01#6 lo data
  | .rdCaps lo data => encodeRead 0x01#6 lo data
  | .wrCtrl lo data => encodeWrite 0x02#6 lo data
  | .rdCtrl lo data => encodeRead 0x02#6 lo data
  | .rdCmd lo data => encodeRead 0x03#6 lo data
  | .wrStatus lo data => encodeWrite 0x04#6 lo data
  | .rdStatus lo data => encodeRead 0x04#6 lo data
  | .wrSrcBase lo data => encodeWrite 0x05#6 lo data
  | .rdSrcBase lo data => encodeRead 0x05#6 lo data
  | .wrLumaBase lo data => encodeWrite 0x06#6 lo data
  | .rdLumaBase lo data => encodeRead 0x06#6 lo data
  | .wrUBase lo data => encodeWrite 0x07#6 lo data
  | .rdUBase lo data => encodeRead 0x07#6 lo data
  | .wrVBase lo data => encodeWrite 0x08#6 lo data
  | .rdVBase lo data => encodeRead 0x08#6 lo data
  | .wrStride lo data => encodeWrite 0x09#6 lo data
  | .rdStride lo data => encodeRead 0x09#6 lo data
  | .wrHeight lo data => encodeWrite 0x0A#6 lo data
  | .rdHeight lo data => encodeRead 0x0A#6 lo data
  | .wrSrcPtr lo data => encodeWrite 0x0B#6 lo data
  | .rdSrcPtr lo data => encodeRead 0x0B#6 lo data
  | .wrLumaPtr lo data => encodeWrite 0x0C#6 lo data
  | .rdLumaPtr lo data => encodeRead 0x0C#6 lo data
  | .wrUPtr lo data => encodeWrite 0x0D#6 lo data
  | .rdUPtr lo data => encodeRead 0x0D#6 lo data
  | .wrVPtr lo data => encodeWrite 0x0E#6 lo data
  | .rdVPtr lo data => encodeRead 0x0E#6 lo data
  | .wrPairCnt lo data => encodeWrite 0x0F#6 lo data
  | .rdPairCnt lo data => encodeRead 0x0F#6 lo data
  | .wrRsv40 low data => .reg (fRegWord 1#1 (0b01#2 ++ low) data)
  | .rdRsv40 low data => .reg (fRegWord 0#1 (0b01#2 ++ low) data)
  | .wrRsv80 low data => .reg (fRegWord 1#1 (0b10#2 ++ low) data)
  | .rdRsv80 low data => .reg (fRegWord 0#1 (0b10#2 ++ low) data)
  | .wrRsvC0 low data => .reg (fRegWord 1#1 (0b11#2 ++ low) data)
  | .rdRsvC0 low data => .reg (fRegWord 0#1 (0b11#2 ++ low) data)
  | .rowIdle => .row 0b00#2
  | .rowEven => .row 0b01#2
  | .rowOdd => .row 0b10#2
  | .rowRsv => .row 0b11#2
  | .stepIdle endBit phase vec =>
    .step (0b0#1 ++ BitVec.ofBool endBit ++ BitVec.ofBool phase ++ BitVec.ofBool vec)
  | .groupEven => .step 0b1000#4
  | .blockEven => .step 0b1001#4
  | .groupOdd => .step 0b1010#4
  | .blockOdd => .step 0b1011#4
  | .rowAdvanceEven vec => .step (0b110#3 ++ BitVec.ofBool vec)
  | .rowAdvanceOdd vec => .step (0b111#3 ++ BitVec.ofBool vec)

end Sys2Proof
end

