-- ==== Sys2Proof/Machine/State.lean ====
section
/-! DEFINITION. The state of the machine, as plain data, its value after reset, and the reasons a step can
stop. INVENTORY.md lists every field with the rule of spec/ that names it. -/

namespace Sys2Proof.Machine

/-- The memory space (20_memory.md R70): address and byte pairs, addresses strictly rising, no pair equal to
what an unlisted address reads as (`Memory.wf`). -/
abbrev Memory := List Host.Cell

/-- The one canonical form of a memory: strictly rising addresses inside the memory space, and no entry that
an unlisted address would read as anyway. -/
abbrev Memory.wf (m : Memory) : Prop :=
  m.Pairwise (fun x y => x.1 < y.1) ∧ ∀ c ∈ m, c.1 < addrSpace ∧ c.2 ≠ Config.unwrittenByte

/-- A set of addresses `(base + i) mod 2^32` for `i < size`; the size is an unbounded integer
(20_memory.md R78, R83). -/
structure Region where
  base : Addr
  size : Nat
deriving DecidableEq, Repr

/-- A part of the launch memory: admitted addresses, each readable, writable or both (20_memory.md R80). -/
structure Grant where
  region : Region
  readable : Bool
  writable : Bool
deriving DecidableEq, Repr

/-- What is fixed for a whole run: the build parameter STRATEGY (00_scope.md R9), the platform parameter
COHERENT (20_memory.md R93) and the launch memory (R80). -/
structure Build where
  strategy : Strategy
  coherent : Bool
  launch : List Grant
deriving DecidableEq, Repr

/-- The fields of STATUS (10_state.md R33 to R40). Its reserved bits read 0 and are not stored. -/
structure Status where
  busy : Bool
  done : Bool
  err : Bool
  cmdIgnored : Bool
  phase : Bool
  geomCause : BitVec 5
  errCode : BitVec 4
deriving DecidableEq, Repr

/-- The six configuration registers (10_state.md R42 to R47). -/
structure ConfigRegs where
  srcBase : Addr
  lumaBase : Addr
  uBase : Addr
  vBase : Addr
  stride : Word
  height : Word
deriving DecidableEq, Repr

/-- The working registers (10_state.md R48 to R52) and the internal state `s_l` (`rowStride`, R53), `pairs_l`
(`pairsL`, R54) and `col` (R55). -/
structure WorkRegs where
  srcPtr : Addr
  lumaPtr : Addr
  uPtr : Addr
  vPtr : Addr
  pairCnt : Word
  rowStride : Word
  pairsL : Word
  col : Word
deriving DecidableEq, Repr

/-- One transaction of the memory master port (10_state.md R22): bytes in ascending address order. -/
inductive MemTxn where
  /-- A read of `len` bytes at `addr`, and the bytes it returned. -/
  | read (addr : Addr) (len : Nat) (data : List Byte)
  /-- A write of the bytes at `addr`. -/
  | write (addr : Addr) (data : List Byte)
deriving DecidableEq, Repr

/-- The reasons of `refuse(reason)` (00_scope.md R15, R18). The spec names two; R237 gives an unshown cache duty "the same
refusal" and no name, and R57's mark is one bit: DESIGN CHOICE (log 31), the model names it apart. -/
inductive RefuseReason where
  /-- Overlapping or oversized regions (60_exceptions.md R236). -/
  | overlapOrSize
  /-- A host write into a running conversion's regions (R237). -/
  | hostWriteDuringBusy
  /-- A host cache duty that is not shown while COHERENT = 0 (20_memory.md R93, R237). The model's own name (log 31). -/
  | cacheDutyNotShown
deriving DecidableEq, Repr

/-- What the last frame start latched, kept for the whole conversion: the bases, `s`, `h`, and the memory `S`
at the accepted START (20_memory.md R78, 42_frame_iterator.md R185). The model's own record (log 26). -/
structure Conversion where
  srcBase : Addr
  lumaBase : Addr
  uBase : Addr
  vBase : Addr
  stride : Word
  height : Word
  startMem : Memory
deriving DecidableEq, Repr

/-- What the host does besides register transactions (00_scope.md R14). -/
inductive HostAction where
  /-- MEMWR: the host writes the bytes at `addr`, `addr + 1`, ... (30_encoding.md R109). -/
  | memWrite (addr : Addr) (bytes : List Byte)
  /-- MEMRD: the host reads `n` bytes at `addr` (R109). -/
  | memRead (addr : Addr) (n : Nat)
  /-- The host cleans (writes back) its cache lines over `n` bytes at `addr` (20_memory.md R93 (a)). -/
  | cacheClean (addr : Addr) (n : Nat)
  /-- The host invalidates its cache lines over `n` bytes at `addr` (R93 (c)). -/
  | cacheInvalidate (addr : Addr) (n : Nat)
  /-- The reset event (70_reset_and_hazards.md R260). -/
  | reset
  /-- The branch that ends a POLL (30_encoding.md R110): if the value just read, masked, is not `value`, the read `word`
  and this branch come again, after as many converter turns as `pace` has first (log 21). -/
  | pollAgain (word : BitVec 41) (mask value : Word) (pace : List Nat)
deriving DecidableEq, Repr

/-- One turn of the schedule: which agent moves next and with what (log 7). -/
inductive Turn where
  /-- A register transaction, as its F-REG word (30_encoding.md R103). -/
  | reg (word : BitVec 41)
  /-- The converter takes the step its selector names (42_frame_iterator.md R172). -/
  | converter
  /-- The row operation code on the row request bus is acted on, for a whole row (10_state.md R24, log 13). -/
  | row (op : BitVec 2)
  /-- An action of the host outside the register port. -/
  | host (action : HostAction)
deriving DecidableEq, Repr

/-- Why the machine stops. -/
inductive Fault where
  /-- The converter is stuck: its step names a transaction that the launch memory does not admit (20_memory.md
  R80, 60_exceptions.md R238). Raised by the unit operations and the row operations. Safe: the hardware may go
  on where the model stops (log 9). -/
  | notAdmitted
deriving DecidableEq, Repr

/-- Why a turn has no meaning. -/
inductive Refusal where
  /-- An instruction without a meaning; no arm of `exec` answers it. Safe. -/
  | notModelled (mnemonic : String)
  /-- A turn of the schedule presents a row operation code that frame_iterator does not drive in this state
  (30_encoding.md R106), so the schedule is no run of the machine. Raised by `step`, never by an instruction.
  Safe (log 13). -/
  | rowOpNotDriven (op : BitVec 2)
deriving DecidableEq, Repr

/-- The state of the machine. -/
structure State where
  /-- Build and launch parameters; no step changes them. -/
  build : Build
  /-- The memory space. -/
  mem : Memory
  /-- `CTRL.IRQ_EN` (10_state.md R32). -/
  irqEn : Bool
  /-- `STATUS` (R33). -/
  status : Status
  /-- The configuration registers (R42 to R47). -/
  cfg : ConfigRegs
  /-- The working registers and the internal state (R48 to R55). -/
  work : WorkRegs
  /-- The staging buffer (R56). -/
  stage : List Byte
  /-- The mark of a refused run, with its first reason (R57). -/
  refused : Option RefuseReason
  /-- `reg_rdata`: the word the last register read returned (R21), which the host has bound; reset leaves it (log 17). -/
  regRdata : Word
  /-- The memory master port: the transactions of the converter's last step, in order (R22). -/
  memPort : List MemTxn
  /-- What the last frame start latched (model only, log 26). -/
  conv : Option Conversion
  /-- The number of the next free value (model only, log 16). -/
  draws : Nat
  /-- What the host's last memory read returned (model only, log 27). -/
  hostData : List Byte
  /-- Addresses the host has written and not cleaned, while COHERENT = 0 (model only, log 6). -/
  dirty : List Region
  /-- Output regions of completed conversions of which the host has not read DONE = 1 yet, while COHERENT = 0 (model only,
  log 6). -/
  doneUnread : List Region
  /-- Output regions of conversions that are over, of which the host has read DONE = 1 (or which a reset has abandoned), and
  which it has not invalidated since, while COHERENT = 0 (model only, log 6). -/
  stale : List Region
  /-- The turns still to come (model only, log 7). -/
  schedule : List Turn
deriving DecidableEq, Repr

/-- STATUS after reset: every field 0 (10_state.md R59). -/
def Status.reset : Status :=
  { busy := false, done := false, err := false, cmdIgnored := false, phase := false, geomCause := 0#5, errCode := 0#4 }

/-- The configuration registers after reset: 0 (R59). -/
def ConfigRegs.reset : ConfigRegs :=
  { srcBase := 0#32, lumaBase := 0#32, uBase := 0#32, vBase := 0#32, stride := 0#32, height := 0#32 }

/-- The working registers and internal state after reset: 0 (R59). -/
def WorkRegs.reset : WorkRegs :=
  { srcPtr := 0#32, lumaPtr := 0#32, uPtr := 0#32, vPtr := 0#32, pairCnt := 0#32, rowStride := 0#32, pairsL := 0#32, col := 0#32 }

/-- The machine right after reset, for a build and launch: every register at the value of R59; `stage`,
`regRdata`, `memPort` and the model's own fields at the values logs 10 to 12, 16, 26 and 27 name; memory with
nothing listed. -/
def State.resetWith (b : Build) : State :=
  { build := b, mem := [], irqEn := false, status := Status.reset, cfg := ConfigRegs.reset, work := WorkRegs.reset,
    stage := List.replicate b.strategy.unitBytes 0#8, refused := none, regRdata := 0#32, memPort := [], conv := none,
    draws := 0, hostData := [], dirty := [], doneUnread := [], stale := [], schedule := [] }

/-- The build and launch that `State.reset` describes: DESIGN CHOICE (logs 1, 3, 5). Every memory address is
admitted for both directions. -/
def Build.reset : Build :=
  { strategy := Config.resetStrategy, coherent := Config.resetCoherent,
    launch := [{ region := { base := 0#32, size := addrSpace }, readable := true, writable := true }] }

/-- The machine right after reset. -/
def State.reset : State := State.resetWith Build.reset

end Sys2Proof.Machine
end

