-- ==== Sys2Proof/Machine/Ops.lean ====
section
/-! DEFINITION. The named operations every meaning is built from: memory, regions, admission, the refused
mark, the one error of the block and its recovery. -/

namespace Sys2Proof.Machine

/-- The byte at an address (20_memory.md R75). -/
def Memory.read : Memory → Nat → Byte
  | [], _ => Config.unwrittenByte
  | (k, v) :: rest, a => if k = a then v else Memory.read rest a

/-- The memory without its entry for an address. -/
def Memory.without (m : Memory) (a : Nat) : Memory := m.filter fun c => c.1 != a

/-- The memory with an entry put where its address belongs in the rising order. -/
def Memory.place : Memory → Nat → Byte → Memory
  | [], a, b => [(a, b)]
  | (k, v) :: rest, a, b => if a < k then (a, b) :: (k, v) :: rest else (k, v) :: Memory.place rest a b

/-- The memory with one byte written (R76), in canonical form: writing what an unlisted address reads as removes the
entry. -/
def Memory.write (m : Memory) (a : Nat) (b : Byte) : Memory :=
  if b = Config.unwrittenByte then Memory.without m a else Memory.place (Memory.without m a) a b

/-- `MemRead(a, n)`: the bytes at `a, a+1, ..., a+n-1`, each modulo `2^32`, lowest address first (00_scope.md
R18, 20_memory.md R75). -/
def Memory.readBytes (m : Memory) : Addr → Nat → List Byte
  | _, 0 => []
  | a, n + 1 => Memory.read m a.toNat :: Memory.readBytes m (a + 1#32) n

/-- `MemWrite(a, n, bytes)`: byte `i` goes to `a + i` modulo `2^32` (00_scope.md R18, 20_memory.md R76). -/
def Memory.writeBytes (m : Memory) : Addr → List Byte → Memory
  | _, [] => m
  | a, b :: rest => Memory.writeBytes (Memory.write m a.toNat b) (a + 1#32) rest

/-- Writes in order: an address and the bytes for it. -/
abbrev UnitWrites := List (Addr × List Byte)

/-- The memory after writes, in order (R76, R87). -/
def Memory.writeAll (m : Memory) (ws : UnitWrites) : Memory := ws.foldl (fun m w => m.writeBytes w.1 w.2) m

/-- The byte of the state's memory at an address. -/
def State.byteAt (s : State) (a : Addr) : Byte := Memory.read s.mem a.toNat

/-- Whether an address is in a region: it is `base + i` modulo `2^32` for some `i < size` (R78). -/
def Region.contains (r : Region) (a : Addr) : Bool := decide ((a - r.base).toNat < r.size)

/-- Whether two regions share no address: each starts at or after the end of the other, going round the address
space (R78, R83). -/
def Region.disjoint (r q : Region) : Bool :=
  decide (r.size = 0 ∨ q.size = 0 ∨ (r.size ≤ (q.base - r.base).toNat ∧ q.size ≤ (r.base - q.base).toNat))

/-- A region without the addresses of another, in at most two parts; going round the address space from the region's base
(R78, R83). -/
def Region.minus (r q : Region) : List Region :=
  let size := min r.size addrSpace
  let start := (q.base - r.base).toNat
  let wrapped := start + q.size - addrSpace
  [⟨r.base + BitVec.ofNat 32 wrapped, min start size - wrapped⟩,
   ⟨r.base + BitVec.ofNat 32 (start + q.size), size - (start + q.size)⟩].filter fun p => p.size != 0

/-- Whether the launch memory admits a byte for the direction (R80). -/
def Build.admitsByte (b : Build) (write : Bool) (a : Addr) : Bool :=
  b.launch.any fun g => g.region.contains a && (if write then g.writable else g.readable)

/-- Whether the launch memory admits a transaction of `n` bytes at `a`: every byte it names is admitted for its
direction (R80). -/
def Build.admits (b : Build) (write : Bool) : Addr → Nat → Bool
  | _, 0 => true
  | a, n + 1 => Build.admitsByte b write a && Build.admits b write (a + 1#32) n

/-- `n` free bytes of one draw, for one thing. -/
def undefinedBytes (draw what n : Nat) : List Byte := (List.range n).map (Config.undefinedByte draw what)

/-- `refuse(reason)`: sets the refused mark; no later step clears it and the first reason stays (00_scope.md
R15, 10_state.md R57). -/
def refuse (reason : RefuseReason) (s : State) : State := { s with refused := some (s.refused.getD reason) }

/-- `raise InvalidGeometry(cause)`: the error entry of 60_exceptions.md R230. Nothing else changes (R233). -/
def raiseInvalidGeometry (cause : BitVec 5) (s : State) : State :=
  { s with status := { s.status with err := true, errCode := 0x1#4, geomCause := cause } }

/-- What an accepted START and an accepted CLEAR begin with: DONE, ERR, ERR_CODE and GEOM_CAUSE become 0
(43_host_interface.md R206, R207). There is no return-from-error operation: this is the recovery (60_exceptions.md
R234). -/
def clearOutcome (s : State) : State :=
  { s with status := { s.status with done := false, err := false, errCode := 0#4, geomCause := 0#5 } }

/-- The answer of a register read: the value goes to `reg_rdata` and no state of the block changes (20_memory.md
R94, 43_host_interface.md R203). -/
def respond (v : Word) (s : State) : State := { s with regRdata := v }

end Sys2Proof.Machine
end

