-- ==== Sys2Proof/Machine/Operands.lean ====
section
/-! DEFINITION. The operand forms: the byte lanes of a unit and the plane mux, the addresses of a unit's
transactions, the row request, and the regions of a conversion. -/

namespace Sys2Proof.Machine

/-- The lanes 0, 2, 4, ... of a byte sequence: the even stream of a deinterleave (40_even_row_unpacker.md R134). -/
def evenLanes : List Byte → List Byte
  | [] => []
  | [b] => [b]
  | b :: _ :: rest => b :: evenLanes rest

/-- The lanes 1, 3, 5, ... of a byte sequence: the odd stream of a deinterleave (R134). -/
def oddLanes : List Byte → List Byte
  | [] => []
  | [_] => []
  | _ :: c :: rest => c :: oddLanes rest

/-- The luma stream of a unit: its even bytes (R131, R133). -/
def lumaStream (unit : List Byte) : List Byte := evenLanes unit

/-- The U stream of a unit: the even lanes of its combined-chroma stream (R131, R133, R134). -/
def uStream (unit : List Byte) : List Byte := evenLanes (oddLanes unit)

/-- The V stream of a unit: the odd lanes of its combined-chroma stream (R131, R133, R134). -/
def vStream (unit : List Byte) : List Byte := oddLanes (oddLanes unit)

/-- The output planes. -/
inductive Plane where
  | luma
  | u
  | v
deriving DecidableEq, Repr

/-- The plane mux of R130: the plane and the offset in that plane's row of the source byte at offset `x` of an
even row. -/
def planeMux (x : Nat) : Plane × Nat :=
  if x % 2 = 0 then (.luma, x / 2) else if x % 4 = 1 then (.u, (x - 1) / 4) else (.v, (x - 3) / 4)

/-- The row pointer of a plane. -/
def State.planePtr (s : State) : Plane → Addr
  | .luma => s.work.lumaPtr
  | .u => s.work.uPtr
  | .v => s.work.vPtr

/-- The address a source byte at row offset `x` is routed to, modulo `2^32` (R130, 20_memory.md R83). -/
def State.planeAddr (s : State) (x : Nat) : Addr :=
  s.planePtr (planeMux x).1 + BitVec.ofNat 32 (planeMux x).2

/-- `SRC_PTR + col`: where a unit is read. -/
def State.unitSrc (s : State) : Addr := s.work.srcPtr + s.work.col

/-- `LUMA_PTR + col/2`: where a unit's luma goes. -/
def State.unitLuma (s : State) : Addr := s.work.lumaPtr + s.work.col / 2#32

/-- `U_PTR + col/4`: where a unit's U bytes go. -/
def State.unitU (s : State) : Addr := s.work.uPtr + s.work.col / 4#32

/-- `V_PTR + col/4`: where a unit's V bytes go. -/
def State.unitV (s : State) : Addr := s.work.vPtr + s.work.col / 4#32

/-- The fields of the row request bus (10_state.md R24). -/
structure RowRequest where
  op : BitVec 2
  src : Addr
  luma : Addr
  u : Addr
  v : Addr
  stride : Word
deriving DecidableEq, Repr

/-- `row_op = {PHASE & BUSY, ~PHASE & BUSY}` (30_encoding.md R106). -/
def rowOp (s : State) : BitVec 2 :=
  BitVec.ofBool (s.status.phase && s.status.busy) ++ BitVec.ofBool (!s.status.phase && s.status.busy)

/-- The row request that frame_iterator presents (10_state.md R24, 42_frame_iterator.md R173). -/
def rowRequest (s : State) : RowRequest :=
  { op := rowOp s, src := s.work.srcPtr, luma := s.work.lumaPtr, u := s.work.uPtr, v := s.work.vPtr,
    stride := s.work.rowStride }

/-- `row_done`, the condition `col = s_l` (40_even_row_unpacker.md R132, 41_odd_row_unpacker.md R150). -/
def rowDone (s : State) : Bool := s.work.col == s.work.rowStride

/-- How many units of the row in progress are still to be done. -/
def unitsLeft (s : State) : Nat := (s.work.rowStride.toNat - s.work.col.toNat) / s.build.strategy.unitBytes

/-- `SRC_REGION` (20_memory.md R78). -/
def Conversion.srcRegion (c : Conversion) : Region := ⟨c.srcBase, c.height.toNat * c.stride.toNat⟩

/-- `LUMA_REGION` (R78). -/
def Conversion.lumaRegion (c : Conversion) : Region := ⟨c.lumaBase, c.height.toNat * (c.stride.toNat / 2)⟩

/-- `U_REGION` (R78). -/
def Conversion.uRegion (c : Conversion) : Region := ⟨c.uBase, (c.height.toNat / 2) * (c.stride.toNat / 4)⟩

/-- `V_REGION` (R78). -/
def Conversion.vRegion (c : Conversion) : Region := ⟨c.vBase, (c.height.toNat / 2) * (c.stride.toNat / 4)⟩

/-- Whether an address is in an output region of the conversion. -/
def Conversion.isOutput (c : Conversion) (a : Addr) : Bool :=
  c.lumaRegion.contains a || c.uRegion.contains a || c.vRegion.contains a

/-- Whether an address is in one of the conversion's four regions. -/
def Conversion.inRegions (c : Conversion) (a : Addr) : Bool := c.srcRegion.contains a || c.isOutput a

/-- `premises_hold` (60_exceptions.md R236): (a) the four regions are pairwise disjoint, (b) each one's unbounded
size is at most `2^32`. -/
def Conversion.premisesHold (c : Conversion) : Bool :=
  c.srcRegion.disjoint c.lumaRegion && c.srcRegion.disjoint c.uRegion && c.srcRegion.disjoint c.vRegion
    && c.lumaRegion.disjoint c.uRegion && c.lumaRegion.disjoint c.vRegion && c.uRegion.disjoint c.vRegion
    && decide (c.srcRegion.size ≤ addrSpace) && decide (c.lumaRegion.size ≤ addrSpace)
    && decide (c.uRegion.size ≤ addrSpace) && decide (c.vRegion.size ≤ addrSpace)

/-- The byte at offset `i` of the source frame at START, `S[SB + i]` (42_frame_iterator.md R185). -/
def Conversion.sourceByte (c : Conversion) (i : Nat) : Byte :=
  Memory.read c.startMem (c.srcBase + BitVec.ofNat 32 i).toNat

/-- The value a conversion writes to an output byte (42_frame_iterator.md R185, R190): luma offset `t·(s/2) + i`
is source offset `t·s + 2i`, U and V offset `k·(s/4) + j` are source offsets `2k·s + 4j + 1` and `+ 3`. -/
def Conversion.outputByte (c : Conversion) (a : Addr) : Byte :=
  let s := c.stride.toNat
  let chromaSource (o : Nat) : Nat := 2 * (o / (s / 4)) * s + 4 * (o % (s / 4))
  if c.lumaRegion.contains a then
    let o := (a - c.lumaBase).toNat
    c.sourceByte (o / (s / 2) * s + 2 * (o % (s / 2)))
  else if c.uRegion.contains a then c.sourceByte (chromaSource (a - c.uBase).toNat + 1)
  else c.sourceByte (chromaSource (a - c.vBase).toNat + 3)

/-- With COHERENT = 0, the output regions of the conversion that is ending: its duty (c) is still to be done (20_memory.md
R93, log 6). -/
def outputsToInvalidate (s : State) : List Region :=
  match s.conv with
  | none => []
  | some c => if s.build.coherent then [] else [c.lumaRegion, c.uRegion, c.vRegion]

end Sys2Proof.Machine
end

