-- ==== Sys2Proof/Machine/Flags.lean ====
section
/-! DEFINITION. Every flag computation: the words of STATUS and CTRL, the geometry causes, `irq`, CMD_IGNORED,
and the step selector. -/

namespace Sys2Proof.Machine

/-- The word a read of STATUS returns (10_state.md R33): BUSY 0, DONE 1, ERR 2, CMD_IGNORED 3, PHASE 4,
GEOM_CAUSE 12:8, ERR_CODE 19:16, the reserved bits 0. -/
def Status.word (t : Status) : Word :=
  0#12 ++ t.errCode ++ 0#3 ++ t.geomCause ++ 0#3 ++ BitVec.ofBool t.phase ++ BitVec.ofBool t.cmdIgnored
    ++ BitVec.ofBool t.err ++ BitVec.ofBool t.done ++ BitVec.ofBool t.busy

/-- The word a read of CTRL returns: IRQ_EN in bit 0, the rest 0 (10_state.md R32). -/
def ctrlWord (s : State) : Word := 0#31 ++ BitVec.ofBool s.irqEn

/-- `geom_cause(s, h)` (42_frame_iterator.md R170): bit 0 STRIDE_ZERO, 1 HEIGHT_ZERO, 2 STRIDE_NOT_MULT4,
3 HEIGHT_ODD, 4 STRIDE_NOT_BLOCK. -/
def geomCause (st : Strategy) (s h : Word) : BitVec 5 :=
  BitVec.ofBool (st.isVector && decide (s.toNat % 32 ≠ 0)) ++ BitVec.ofBool (decide (h.toNat % 2 ≠ 0))
    ++ BitVec.ofBool (decide (s.toNat % 4 ≠ 0)) ++ BitVec.ofBool (decide (h = 0#32)) ++ BitVec.ofBool (decide (s = 0#32))

/-- `irq = CTRL.IRQ_EN & (STATUS.DONE | STATUS.ERR)`, a level (60_exceptions.md R240, 10_state.md R23). -/
def irq (s : State) : Bool := s.irqEn && (s.status.done || s.status.err)

/-- An ignored command: `STATUS.CMD_IGNORED <- 1` and nothing else (43_host_interface.md R208). -/
def ignoreCommand (s : State) : State := { s with status := { s.status with cmdIgnored := true } }

/-- The step selector: BUSY, END, PHASE, VEC (30_encoding.md R105); END is 1 exactly when `col = s_l`. -/
def stepSelector (s : State) : BitVec 4 :=
  BitVec.ofBool s.status.busy ++ BitVec.ofBool (rowDone s) ++ BitVec.ofBool s.status.phase
    ++ BitVec.ofBool s.build.strategy.isVector

end Sys2Proof.Machine
end

