-- ==== Sys2Proof/Machine/Refused.lean ====
section
/-! DEFINITION. What a refused run holds: 60_exceptions.md R236 and R237 leave it undefined, and 00_scope.md R15 lets no claim
rest on it. -/

namespace Sys2Proof.Machine

/-- The free writes of one draw, each of 1 to 32 bytes (10_state.md R22). -/
def undefinedWriteList (draw : Nat) : UnitWrites := (Config.undefinedWrites draw).map fun w => (w.1, w.2.1 :: w.2.2.take 31)

/-- The free bytes of the port's read of one draw, 1 to 32 of them (R22). -/
def undefinedReadBytes (draw : Nat) : List Byte := undefinedBytes draw 2 (1 + (Config.undefinedWord draw 8).toNat % 32)

/-- A free STATUS, from a free word, each field at its place (R33). -/
def undefinedStatus (w : Word) : Status :=
  { busy := w.getLsbD 0, done := w.getLsbD 1, err := w.getLsbD 2, cmdIgnored := w.getLsbD 3, phase := w.getLsbD 4,
    geomCause := w.extractLsb' 8 5, errCode := w.extractLsb' 16 4 }

/-- The state with all that the spec gives the machine free: memory, at any address; every register and internal state;
`stage`; the ports; and what the host last read. The build, the mark and the model's own records stay (log 8). -/
def refusedState (s : State) : State :=
  let w := Config.undefinedWord s.draws
  let ws := undefinedWriteList s.draws
  { s with
    mem := s.mem.writeAll ws
    irqEn := (w 17).getLsbD 0
    status := undefinedStatus (w 6)
    cfg := { srcBase := w 11, lumaBase := w 12, uBase := w 13, vBase := w 14, stride := w 15, height := w 16 }
    work := { srcPtr := w 0, lumaPtr := w 1, uPtr := w 2, vPtr := w 3, pairCnt := w 4, rowStride := w 9, pairsL := w 10, col := w 5 }
    stage := undefinedBytes s.draws 0 s.build.strategy.unitBytes
    regRdata := w 18
    memPort := MemTxn.read (w 7) (undefinedReadBytes s.draws).length (undefinedReadBytes s.draws)
      :: ws.map fun x => MemTxn.write x.1 x.2
    hostData := undefinedBytes s.draws 1 s.hostData.length
    draws := s.draws + 1 }

/-- A converter step: its rule's effect, and in a refused run a free one. -/
def converterEffect (effect : State → State) (s : State) : State := if s.refused.isSome then refusedState s else effect s

/-- The host breaks a duty: the run is refused, and from here on nothing of it is known (60_exceptions.md R237). A frame
start that refuses its run is not of this kind: the hardware starts the frame, as 42_frame_iterator.md R171 says (log 8). -/
def refuseByHost (reason : RefuseReason) (s : State) : State := refusedState (refuse reason s)

/-- The state after a turn: what the turn leaves, and in a run that was already refused a free one, whatever the turn was
(00_scope.md R15, log 8). -/
def settle (before after : State) : State := if before.refused.isSome then refusedState after else after

end Sys2Proof.Machine
end

