-- ==== Sys2Proof/Machine/Unit.lean ====
section
/-! DEFINITION. The unit operation that both unpackers share: one read of a unit into `stage`, the writes of its
lanes, and the advance of `col`; and the run of units that makes a row. -/

namespace Sys2Proof.Machine

/-- The `n` bytes a unit's read delivers to `stage` (20_memory.md R75). -/
def unitData (n : Nat) (s : State) : List Byte := s.mem.readBytes s.unitSrc n

/-- The writes of an even unit: luma, then U, then V (20_memory.md R74, R87; 40_even_row_unpacker.md R131, R133). -/
def evenWrites (s : State) (unit : List Byte) : UnitWrites :=
  [(s.unitLuma, lumaStream unit), (s.unitU, uStream unit), (s.unitV, vStream unit)]

/-- The writes of an odd unit: luma only (41_odd_row_unpacker.md R151, R152). -/
def oddWrites (s : State) (unit : List Byte) : UnitWrites := [(s.unitLuma, lumaStream unit)]

/-- Whether the launch memory admits the unit's read of `n` bytes and each of its writes (20_memory.md R80). -/
def unitAdmitted (n : Nat) (ws : UnitWrites) (s : State) : Bool :=
  s.build.admits false s.unitSrc n && ws.all fun w => s.build.admits true w.1 w.2.length

/-- The state after a unit of `n` bytes with the given data and writes: the bytes written, `stage` filled, `col`
advanced by `n`, and the port's transactions recorded (R74). -/
def unitDone (n : Nat) (data : List Byte) (ws : UnitWrites) (s : State) : State :=
  { s with
    mem := s.mem.writeAll ws
    stage := data
    work := { s.work with col := s.work.col + BitVec.ofNat 32 n }
    memPort := MemTxn.read s.unitSrc n data :: ws.map fun w => MemTxn.write w.1 w.2 }

/-- One unit operation on `n` source bytes whose lanes go where `route` says. If one of its transactions is not
admitted, the step does not happen and the converter is stuck (20_memory.md R80). In a refused run what it does is free
(60_exceptions.md R236, log 8). -/
def unitStep (n : Nat) (route : State → List Byte → UnitWrites) (s : State) : Host.Outcome State Fault Refusal :=
  let data := unitData n s
  if unitAdmitted n (route s data) s then .next (converterEffect (unitDone n data (route s data)) s)
  else .fault .notAdmitted

/-- `k` units one after another, with no other agent's step between (log 13). A unit that is not admitted ends the run
there: the units before it are done, and the converter is stuck at it (20_memory.md R80, log 22). -/
def runUnits (n : Nat) (route : State → List Byte → UnitWrites) : Nat → State → Host.Outcome State Fault Refusal
  | 0, s => .next s
  | k + 1, s =>
    match unitStep n route s with
    | .next t =>
      match runUnits n route k t with
      | .next u => .next u
      | .fault _ => .next t
      | .refused _ => .next t
    | .fault r => .fault r
    | .refused r => .refused r

end Sys2Proof.Machine
end

