-- ==== Sys2Proof/Machine/FrameIterator.lean ====
section
/-! DEFINITION. frame_iterator (42_frame_iterator.md): the frame start, the row ends, completion and idle; and the
row operation codes that select no row. -/

namespace Sys2Proof.Machine

/-- What a frame start latches from the registers, with the memory at START (R171, R185). -/
def latched (s : State) : Conversion :=
  { srcBase := s.cfg.srcBase, lumaBase := s.cfg.lumaBase, uBase := s.cfg.uBase, vBase := s.cfg.vBase,
    stride := s.cfg.stride, height := s.cfg.height, startMem := s.mem }

/-- The register writes of the frame start (R171). -/
def latchFrame (s : State) : State :=
  { s with
    work :=
      { srcPtr := s.cfg.srcBase, lumaPtr := s.cfg.lumaBase, uPtr := s.cfg.uBase, vPtr := s.cfg.vBase, pairCnt := 0#32,
        rowStride := s.cfg.stride, pairsL := s.cfg.height / 2#32, col := 0#32 }
    status := { s.status with phase := false, busy := true }
    conv := some (latched s) }

/-- Whether the host's cache duties (a) and (b) of 20_memory.md R93 are shown for a conversion: with COHERENT = 0,
no byte of its regions is in a host line that may be dirty (log 6). -/
def cacheDutiesShown (s : State) (c : Conversion) : Bool :=
  s.build.coherent || s.dirty.all fun d =>
    d.disjoint c.srcRegion && d.disjoint c.lumaRegion && d.disjoint c.uRegion && d.disjoint c.vRegion

/-- The frame start (R171). The hardware starts the frame whatever the premises; the model then marks the run
refused (60_exceptions.md R236, R237). -/
def frameStart (s : State) : State :=
  let t := if (latched s).premisesHold then latchFrame s else refuse .overlapOrSize (latchFrame s)
  if cacheDutiesShown s (latched s) then t else refuse .cacheDutyNotShown t

/-- The end of an even row (R176): all four pointers advance, PHASE becomes 1 and `col` 0. -/
def advanceEven (s : State) : State :=
  { s with
    work := { s.work with
      srcPtr := s.work.srcPtr + s.work.rowStride
      lumaPtr := s.work.lumaPtr + s.work.rowStride / 2#32
      uPtr := s.work.uPtr + s.work.rowStride / 4#32
      vPtr := s.work.vPtr + s.work.rowStride / 4#32
      col := 0#32 }
    status := { s.status with phase := true }
    memPort := [] }

/-- ROW_ADVANCE_EVEN (R176). In a refused run what it does is free (60_exceptions.md R236, log 8). -/
def execRowAdvanceEven (_vec : Bool) (s : State) : Host.Outcome State Fault Refusal :=
  .next (converterEffect advanceEven s)

/-- Whether the row pair being ended is the last: `PAIR_CNT + 1 = pairs_l` (R177). -/
def lastPair (s : State) : Bool := s.work.pairCnt + 1#32 == s.work.pairsL

/-- The end of an odd row (R177): the source and luma pointers advance, the pair is counted, PHASE and `col` become
0; on the last pair BUSY becomes 0 and DONE 1 together (R178). From then on the host's duty (c) of 20_memory.md R93 is
open for the outputs (log 6). -/
def advanceOdd (s : State) : State :=
  { s with
    work := { s.work with
      srcPtr := s.work.srcPtr + s.work.rowStride
      lumaPtr := s.work.lumaPtr + s.work.rowStride / 2#32
      pairCnt := s.work.pairCnt + 1#32
      col := 0#32 }
    status := { s.status with
      phase := false
      busy := if lastPair s then false else s.status.busy
      done := if lastPair s then true else s.status.done }
    memPort := []
    doneUnread := if lastPair s then outputsToInvalidate s ++ s.doneUnread else s.doneUnread }

/-- ROW_ADVANCE_ODD (R177). In a refused run what it does is free (60_exceptions.md R236, log 8). -/
def execRowAdvanceOdd (_vec : Bool) (s : State) : Host.Outcome State Fault Refusal :=
  .next (converterEffect advanceOdd s)

/-- STEP_IDLE (R179): the converter has no step and accesses no memory. -/
def execStepIdle (_endBit _phase _vec : Bool) (s : State) : Host.Outcome State Fault Refusal := .next s

/-- ROW_IDLE (30_encoding.md R106): no row in progress, both unpackers idle. -/
def execRowIdle (s : State) : Host.Outcome State Fault Refusal := .next s

/-- ROW_RSV (R106): both unpackers treat it as IDLE. -/
def execRowRsv (s : State) : Host.Outcome State Fault Refusal := .next s

end Sys2Proof.Machine
end

