-- ==== Sys2Proof/Machine/Commands.lean ====
section
/-! DEFINITION. The commands: writes to CMD (43_host_interface.md R204 to R208). -/

namespace Sys2Proof.Machine

/-- NOP (R205): no effect. -/
def execNop (_lo : BitVec 2) (s : State) : Host.Outcome State Fault Refusal := .next s

/-- An accepted START (R206): the outcome of the last one is cleared, the geometry is checked before any memory
access, and the frame starts or InvalidGeometry is recorded. -/
def acceptStart (s : State) : State :=
  let cause := geomCause s.build.strategy s.cfg.stride s.cfg.height
  if cause = 0#5 then frameStart (clearOutcome s) else raiseInvalidGeometry cause (clearOutcome s)

/-- START (R206): ignored while BUSY. -/
def execStart (_lo : BitVec 2) (s : State) : Host.Outcome State Fault Refusal :=
  .next (if s.status.busy then ignoreCommand s else acceptStart s)

/-- An accepted CLEAR (R207): CMD_IGNORED is cleared too. -/
def acceptClear (s : State) : State :=
  { clearOutcome s with status := { (clearOutcome s).status with cmdIgnored := false } }

/-- CLEAR (R207): ignored while BUSY. -/
def execClear (_lo : BitVec 2) (s : State) : Host.Outcome State Fault Refusal :=
  .next (if s.status.busy then ignoreCommand s else acceptClear s)

/-- IGNORED_OP (R208), in any state. -/
def execIgnoredOp (_lo : BitVec 2) (s : State) : Host.Outcome State Fault Refusal := .next (ignoreCommand s)

/-- IGNORED_RSV (R208), in any state. -/
def execIgnoredRsv (_lo : BitVec 2) (_data : Word) (s : State) : Host.Outcome State Fault Refusal :=
  .next (ignoreCommand s)

end Sys2Proof.Machine
end

