-- ==== Sys2Proof/Machine/EvenRow.lean ====
section
/-! DEFINITION. even_row_unpacker (40_even_row_unpacker.md): the meanings of GROUP_EVEN, BLOCK_EVEN and ROW_EVEN. -/

namespace Sys2Proof.Machine

/-- GROUP_EVEN (R131): one 4-byte group, `Y0` and `Y1` to luma, `U` to U, `V` to V. -/
def execGroupEven (s : State) : Host.Outcome State Fault Refusal := unitStep 4 evenWrites s

/-- BLOCK_EVEN (R133): one 32-byte block, 16 luma, 8 U and 8 V bytes by two deinterleaves. -/
def execBlockEven (s : State) : Host.Outcome State Fault Refusal := unitStep 32 evenWrites s

/-- ROW_EVEN (R132): the operation of the build's strategy at `col`, `col + G`, ..., up to `s_l`. -/
def execRowEven (s : State) : Host.Outcome State Fault Refusal :=
  runUnits s.build.strategy.unitBytes evenWrites (unitsLeft s) s

end Sys2Proof.Machine
end

