-- ==== Sys2Proof/Machine/OddRow.lean ====
section
/-! DEFINITION. odd_row_unpacker (41_odd_row_unpacker.md): the meanings of GROUP_ODD, BLOCK_ODD and ROW_ODD. -/

namespace Sys2Proof.Machine

/-- GROUP_ODD (R151): one 4-byte group, `Y0` and `Y1` to luma, the chroma bytes read and dropped. -/
def execGroupOdd (s : State) : Host.Outcome State Fault Refusal := unitStep 4 oddWrites s

/-- BLOCK_ODD (R152): one 32-byte block, its 16 luma bytes; the chroma lanes are dropped. -/
def execBlockOdd (s : State) : Host.Outcome State Fault Refusal := unitStep 32 oddWrites s

/-- ROW_ODD (R150): the operation of the build's strategy at `col`, `col + G`, ..., up to `s_l`. -/
def execRowOdd (s : State) : Host.Outcome State Fault Refusal :=
  runUnits s.build.strategy.unitBytes oddWrites (unitsLeft s) s

end Sys2Proof.Machine
end

