-- ==== Sys2Proof/Machine/Registers.lean ====
section
/-! DEFINITION. Register reads and the writes of registers other than CMD (43_host_interface.md R200 to R203,
10_state.md R27 to R52). -/

namespace Sys2Proof.Machine

/-- A write of a configuration register (10_state.md R42 to R47): the six are stored whole, in every state, and used
by the next accepted START only (43_host_interface.md R209). -/
def writeConfig (f : ConfigRegs) (s : State) : State := { s with cfg := f }

/-- WR.ID (43_host_interface.md R202): a write to a read-only register has no effect on any state. -/
def execWrId (_lo : BitVec 2) (_data : Word) (s : State) : Host.Outcome State Fault Refusal := .next s

/-- RD.ID (10_state.md R30). -/
def execRdId (_lo : BitVec 2) (_data : Word) (s : State) : Host.Outcome State Fault Refusal :=
  .next (respond Config.idValue s)

/-- WR.CAPS (43_host_interface.md R202): a write to a read-only register has no effect on any state. -/
def execWrCaps (_lo : BitVec 2) (_data : Word) (s : State) : Host.Outcome State Fault Refusal := .next s

/-- RD.CAPS (10_state.md R31). -/
def execRdCaps (_lo : BitVec 2) (_data : Word) (s : State) : Host.Outcome State Fault Refusal :=
  .next (respond (Config.capsValue s.build.strategy) s)

/-- WR.CTRL (10_state.md R32): IRQ_EN takes bit 0; the reserved bits ignore the write. It takes effect at once. -/
def execWrCtrl (_lo : BitVec 2) (data : Word) (s : State) : Host.Outcome State Fault Refusal :=
  .next { s with irqEn := data.getLsbD 0 }

/-- RD.CTRL (10_state.md R32). -/
def execRdCtrl (_lo : BitVec 2) (_data : Word) (s : State) : Host.Outcome State Fault Refusal :=
  .next (respond (ctrlWord s) s)

/-- RD.CMD (10_state.md R41). -/
def execRdCmd (_lo : BitVec 2) (_data : Word) (s : State) : Host.Outcome State Fault Refusal :=
  .next (respond 0x00000000#32 s)

/-- WR.STATUS (43_host_interface.md R202): a write to a read-only register has no effect on any state. -/
def execWrStatus (_lo : BitVec 2) (_data : Word) (s : State) : Host.Outcome State Fault Refusal := .next s

/-- RD.STATUS (10_state.md R33). -/
def execRdStatus (_lo : BitVec 2) (_data : Word) (s : State) : Host.Outcome State Fault Refusal :=
  .next (respond s.status.word s)

/-- WR.SRC_BASE (10_state.md R42). -/
def execWrSrcBase (_lo : BitVec 2) (data : Word) (s : State) : Host.Outcome State Fault Refusal :=
  .next (writeConfig { s.cfg with srcBase := data } s)

/-- RD.SRC_BASE (10_state.md R42). -/
def execRdSrcBase (_lo : BitVec 2) (_data : Word) (s : State) : Host.Outcome State Fault Refusal :=
  .next (respond s.cfg.srcBase s)

/-- WR.LUMA_BASE (10_state.md R43). -/
def execWrLumaBase (_lo : BitVec 2) (data : Word) (s : State) : Host.Outcome State Fault Refusal :=
  .next (writeConfig { s.cfg with lumaBase := data } s)

/-- RD.LUMA_BASE (10_state.md R43). -/
def execRdLumaBase (_lo : BitVec 2) (_data : Word) (s : State) : Host.Outcome State Fault Refusal :=
  .next (respond s.cfg.lumaBase s)

/-- WR.U_BASE (10_state.md R44). -/
def execWrUBase (_lo : BitVec 2) (data : Word) (s : State) : Host.Outcome State Fault Refusal :=
  .next (writeConfig { s.cfg with uBase := data } s)

/-- RD.U_BASE (10_state.md R44). -/
def execRdUBase (_lo : BitVec 2) (_data : Word) (s : State) : Host.Outcome State Fault Refusal :=
  .next (respond s.cfg.uBase s)

/-- WR.V_BASE (10_state.md R45). -/
def execWrVBase (_lo : BitVec 2) (data : Word) (s : State) : Host.Outcome State Fault Refusal :=
  .next (writeConfig { s.cfg with vBase := data } s)

/-- RD.V_BASE (10_state.md R45). -/
def execRdVBase (_lo : BitVec 2) (_data : Word) (s : State) : Host.Outcome State Fault Refusal :=
  .next (respond s.cfg.vBase s)

/-- WR.STRIDE (10_state.md R46). -/
def execWrStride (_lo : BitVec 2) (data : Word) (s : State) : Host.Outcome State Fault Refusal :=
  .next (writeConfig { s.cfg with stride := data } s)

/-- RD.STRIDE (10_state.md R46). -/
def execRdStride (_lo : BitVec 2) (_data : Word) (s : State) : Host.Outcome State Fault Refusal :=
  .next (respond s.cfg.stride s)

/-- WR.HEIGHT (10_state.md R47). -/
def execWrHeight (_lo : BitVec 2) (data : Word) (s : State) : Host.Outcome State Fault Refusal :=
  .next (writeConfig { s.cfg with height := data } s)

/-- RD.HEIGHT (10_state.md R47). -/
def execRdHeight (_lo : BitVec 2) (_data : Word) (s : State) : Host.Outcome State Fault Refusal :=
  .next (respond s.cfg.height s)

/-- WR.SRC_PTR (43_host_interface.md R202): a write to a read-only register has no effect on any state. -/
def execWrSrcPtr (_lo : BitVec 2) (_data : Word) (s : State) : Host.Outcome State Fault Refusal := .next s

/-- RD.SRC_PTR (10_state.md R48). -/
def execRdSrcPtr (_lo : BitVec 2) (_data : Word) (s : State) : Host.Outcome State Fault Refusal :=
  .next (respond s.work.srcPtr s)

/-- WR.LUMA_PTR (43_host_interface.md R202): a write to a read-only register has no effect on any state. -/
def execWrLumaPtr (_lo : BitVec 2) (_data : Word) (s : State) : Host.Outcome State Fault Refusal := .next s

/-- RD.LUMA_PTR (10_state.md R49). -/
def execRdLumaPtr (_lo : BitVec 2) (_data : Word) (s : State) : Host.Outcome State Fault Refusal :=
  .next (respond s.work.lumaPtr s)

/-- WR.U_PTR (43_host_interface.md R202): a write to a read-only register has no effect on any state. -/
def execWrUPtr (_lo : BitVec 2) (_data : Word) (s : State) : Host.Outcome State Fault Refusal := .next s

/-- RD.U_PTR (10_state.md R50). -/
def execRdUPtr (_lo : BitVec 2) (_data : Word) (s : State) : Host.Outcome State Fault Refusal :=
  .next (respond s.work.uPtr s)

/-- WR.V_PTR (43_host_interface.md R202): a write to a read-only register has no effect on any state. -/
def execWrVPtr (_lo : BitVec 2) (_data : Word) (s : State) : Host.Outcome State Fault Refusal := .next s

/-- RD.V_PTR (10_state.md R51). -/
def execRdVPtr (_lo : BitVec 2) (_data : Word) (s : State) : Host.Outcome State Fault Refusal :=
  .next (respond s.work.vPtr s)

/-- WR.PAIR_CNT (43_host_interface.md R202): a write to a read-only register has no effect on any state. -/
def execWrPairCnt (_lo : BitVec 2) (_data : Word) (s : State) : Host.Outcome State Fault Refusal := .next s

/-- RD.PAIR_CNT (10_state.md R52). -/
def execRdPairCnt (_lo : BitVec 2) (_data : Word) (s : State) : Host.Outcome State Fault Refusal :=
  .next (respond s.work.pairCnt s)

/-- WR.RSV at 0x40-0x7F (10_state.md R28): no effect. -/
def execWrRsv40 (_low : BitVec 6) (_data : Word) (s : State) : Host.Outcome State Fault Refusal := .next s

/-- RD.RSV at 0x40-0x7F (10_state.md R28): returns 0. -/
def execRdRsv40 (_low : BitVec 6) (_data : Word) (s : State) : Host.Outcome State Fault Refusal :=
  .next (respond 0x00000000#32 s)

/-- WR.RSV at 0x80-0xBF (10_state.md R28): no effect. -/
def execWrRsv80 (_low : BitVec 6) (_data : Word) (s : State) : Host.Outcome State Fault Refusal := .next s

/-- RD.RSV at 0x80-0xBF (10_state.md R28): returns 0. -/
def execRdRsv80 (_low : BitVec 6) (_data : Word) (s : State) : Host.Outcome State Fault Refusal :=
  .next (respond 0x00000000#32 s)

/-- WR.RSV at 0xC0-0xFF (10_state.md R28): no effect. -/
def execWrRsvC0 (_low : BitVec 6) (_data : Word) (s : State) : Host.Outcome State Fault Refusal := .next s

/-- RD.RSV at 0xC0-0xFF (10_state.md R28): returns 0. -/
def execRdRsvC0 (_low : BitVec 6) (_data : Word) (s : State) : Host.Outcome State Fault Refusal :=
  .next (respond 0x00000000#32 s)

end Sys2Proof.Machine
end

