-- ==== Sys2Proof/Machine/Dispatch.lean ====
section
/-! DEFINITION. One arm for each instruction. -/

namespace Sys2Proof.Machine

def exec (i : Instr) (s : State) : Host.Outcome State Fault Refusal :=
  match i with
  | .nop lo => Sys2Proof.Machine.execNop lo s
  | .start lo => Sys2Proof.Machine.execStart lo s
  | .clear lo => Sys2Proof.Machine.execClear lo s
  | .ignoredOp lo => Sys2Proof.Machine.execIgnoredOp lo s
  | .ignoredRsv lo data => Sys2Proof.Machine.execIgnoredRsv lo data s
  | .wrId lo data => Sys2Proof.Machine.execWrId lo data s
  | .rdId lo data => Sys2Proof.Machine.execRdId lo data s
  | .wrCaps lo data => Sys2Proof.Machine.execWrCaps lo data s
  | .rdCaps lo data => Sys2Proof.Machine.execRdCaps lo data s
  | .wrCtrl lo data => Sys2Proof.Machine.execWrCtrl lo data s
  | .rdCtrl lo data => Sys2Proof.Machine.execRdCtrl lo data s
  | .rdCmd lo data => Sys2Proof.Machine.execRdCmd lo data s
  | .wrStatus lo data => Sys2Proof.Machine.execWrStatus lo data s
  | .rdStatus lo data => Sys2Proof.Machine.execRdStatus lo data s
  | .wrSrcBase lo data => Sys2Proof.Machine.execWrSrcBase lo data s
  | .rdSrcBase lo data => Sys2Proof.Machine.execRdSrcBase lo data s
  | .wrLumaBase lo data => Sys2Proof.Machine.execWrLumaBase lo data s
  | .rdLumaBase lo data => Sys2Proof.Machine.execRdLumaBase lo data s
  | .wrUBase lo data => Sys2Proof.Machine.execWrUBase lo data s
  | .rdUBase lo data => Sys2Proof.Machine.execRdUBase lo data s
  | .wrVBase lo data => Sys2Proof.Machine.execWrVBase lo data s
  | .rdVBase lo data => Sys2Proof.Machine.execRdVBase lo data s
  | .wrStride lo data => Sys2Proof.Machine.execWrStride lo data s
  | .rdStride lo data => Sys2Proof.Machine.execRdStride lo data s
  | .wrHeight lo data => Sys2Proof.Machine.execWrHeight lo data s
  | .rdHeight lo data => Sys2Proof.Machine.execRdHeight lo data s
  | .wrSrcPtr lo data => Sys2Proof.Machine.execWrSrcPtr lo data s
  | .rdSrcPtr lo data => Sys2Proof.Machine.execRdSrcPtr lo data s
  | .wrLumaPtr lo data => Sys2Proof.Machine.execWrLumaPtr lo data s
  | .rdLumaPtr lo data => Sys2Proof.Machine.execRdLumaPtr lo data s
  | .wrUPtr lo data => Sys2Proof.Machine.execWrUPtr lo data s
  | .rdUPtr lo data => Sys2Proof.Machine.execRdUPtr lo data s
  | .wrVPtr lo data => Sys2Proof.Machine.execWrVPtr lo data s
  | .rdVPtr lo data => Sys2Proof.Machine.execRdVPtr lo data s
  | .wrPairCnt lo data => Sys2Proof.Machine.execWrPairCnt lo data s
  | .rdPairCnt lo data => Sys2Proof.Machine.execRdPairCnt lo data s
  | .wrRsv40 low data => Sys2Proof.Machine.execWrRsv40 low data s
  | .rdRsv40 low data => Sys2Proof.Machine.execRdRsv40 low data s
  | .wrRsv80 low data => Sys2Proof.Machine.execWrRsv80 low data s
  | .rdRsv80 low data => Sys2Proof.Machine.execRdRsv80 low data s
  | .wrRsvC0 low data => Sys2Proof.Machine.execWrRsvC0 low data s
  | .rdRsvC0 low data => Sys2Proof.Machine.execRdRsvC0 low data s
  | .rowIdle => Sys2Proof.Machine.execRowIdle s
  | .rowEven => Sys2Proof.Machine.execRowEven s
  | .rowOdd => Sys2Proof.Machine.execRowOdd s
  | .rowRsv => Sys2Proof.Machine.execRowRsv s
  | .stepIdle endBit phase vec => Sys2Proof.Machine.execStepIdle endBit phase vec s
  | .groupEven => Sys2Proof.Machine.execGroupEven s
  | .blockEven => Sys2Proof.Machine.execBlockEven s
  | .groupOdd => Sys2Proof.Machine.execGroupOdd s
  | .blockOdd => Sys2Proof.Machine.execBlockOdd s
  | .rowAdvanceEven vec => Sys2Proof.Machine.execRowAdvanceEven vec s
  | .rowAdvanceOdd vec => Sys2Proof.Machine.execRowAdvanceOdd vec s

end Sys2Proof.Machine
end

