-- ==== Sys2Proof/Machine/HostActions.lean ====
section
/-! DEFINITION. What the host does besides register transactions: memory writes and reads (20_memory.md R88,
60_exceptions.md R237), cache maintenance (20_memory.md R93), the reset event (70_reset_and_hazards.md R260), the branch of a POLL, and
the pseudo-instructions of 30_encoding.md R110 as lists of turns. -/

namespace Sys2Proof.Machine

/-- Whether a host write of this byte is a write into the running conversion's regions (60_exceptions.md R237). -/
def hitsRunning (s : State) (a : Addr) : Bool :=
  s.status.busy && (match s.conv with | some c => c.inRegions a | none => false)

/-- MEMWR (30_encoding.md R109): the bytes go to memory in ascending address order; with COHERENT = 0 they may be in dirty
host lines (20_memory.md R93, log 6). A write of any byte of a running conversion's regions refuses the run, and the spec
gives neither outcome (60_exceptions.md R237, log 8). -/
def hostWrite (a : Addr) (bytes : List Byte) (s : State) : State :=
  let t := { s with
    mem := s.mem.writeBytes a bytes
    dirty := if s.build.coherent then s.dirty else ⟨a, bytes.length⟩ :: s.dirty }
  if (List.range bytes.length).any fun k => hitsRunning s (a + BitVec.ofNat 32 k) then refuseByHost .hostWriteDuringBusy t
  else t

/-- What a host read of a byte returns. While BUSY, a byte of an output region gives its value at START or the value
the conversion writes, by a free draw; every other byte gives memory's (20_memory.md R88). -/
def hostReadByte (s : State) (a : Addr) : Byte :=
  match s.conv with
  | none => s.byteAt a
  | some c =>
    if s.status.busy && c.isOutput a then
      if Config.raceReadsNew s.draws a.toNat then c.outputByte a else Memory.read c.startMem a.toNat
    else s.byteAt a

/-- The bytes a host read returns, in ascending address order. -/
def hostReadBytes (s : State) : Addr → Nat → List Byte
  | _, 0 => []
  | a, n + 1 => hostReadByte s a :: hostReadBytes s (a + 1#32) n

/-- Whether a host read meets an output region whose duty (c) is still to be done, with COHERENT = 0: idle, or while
a later conversion runs (20_memory.md R93, log 6). -/
def meetsStale (s : State) (a : Addr) (n : Nat) : Bool :=
  !s.build.coherent && (s.doneUnread ++ s.stale).any fun r => !r.disjoint ⟨a, n⟩

/-- MEMRD (30_encoding.md R109). A read that breaks the duty (c) of 20_memory.md R93 refuses the run (60_exceptions.md R237).
In a refused run nothing is known of what it returns (log 8). -/
def hostRead (a : Addr) (n : Nat) (s : State) : State :=
  let t := { s with hostData := hostReadBytes s a n, draws := s.draws + 1 }
  if s.refused.isSome || meetsStale s a n then refuseByHost .cacheDutyNotShown t else t

/-- A clean of the host's lines over `n` bytes at `a`: those bytes are no longer dirty (20_memory.md R93 (a)). -/
def cacheClean (a : Addr) (n : Nat) (s : State) : State := { s with dirty := s.dirty.flatMap fun r => r.minus ⟨a, n⟩ }

/-- An invalidation of the host's lines over `n` bytes at `a`, idle or busy: of the outputs of conversions whose DONE = 1 the
host has read, those bytes are no longer stale (20_memory.md R93 (c)). The spec does not say what invalidating a line that is
still dirty does: DESIGN CHOICE (log 28), memory keeps the bytes the host wrote and they stay dirty. -/
def cacheInvalidate (a : Addr) (n : Nat) (s : State) : State := { s with stale := s.stale.flatMap fun r => r.minus ⟨a, n⟩ }

/-- Whether an instruction was a read of STATUS that returned DONE = 1. -/
def readsDone (i : Instr) (s : State) : Bool :=
  match i with
  | .rdStatus _ _ => s.regRdata.getLsbD 1
  | _ => false

/-- What the host has learned after an instruction: once it has read DONE = 1, an invalidation counts for the outputs of the
conversions that had completed (20_memory.md R93 (c), log 6). The block's own state does not change. -/
def hostLearns (i : Instr) (s : State) : State :=
  if readsDone i s then { s with doneUnread := [], stale := s.doneUnread ++ s.stale } else s

/-- What the host learns from an instruction, and in a refused run a free state (logs 6, 8). -/
def finishInstr (before : State) (i : Instr) (o : Host.Outcome State Fault Refusal) : Host.Outcome State Fault Refusal :=
  match o with
  | .next t => .next (settle before (hostLearns i t))
  | .fault r => .fault r
  | .refused r => .refused r

/-- The branch of a POLL, `BR L IF t & mask != value`, on the value just read (30_encoding.md R110): the poll ends when it
matches; else, after the pace's converter turns (one when the pace is used up), the read and the branch come again. -/
def pollAgain (word : BitVec 41) (mask value : Word) (pace : List Nat) (s : State) : State :=
  if s.regRdata &&& mask = value then s
  else
    { s with
      schedule := List.replicate (pace.headD 1) Turn.converter ++ [.reg word, .host (.pollAgain word mask value pace.tail)]
        ++ s.schedule }

/-- The reset event (70_reset_and_hazards.md R260, 10_state.md R59): every register takes its reset value; memory,
the refused mark, the build and what belongs to the host stay (R57, R261, log 17); the word of its last register read too, so
that a reset between the read of a POLL and its branch leaves the value the host bound (30_encoding.md R109, log 21). With COHERENT = 0, the outputs of a
conversion that it abandons are stale from then on (log 6). -/
def resetEvent (s : State) : State :=
  { State.resetWith s.build with
    mem := s.mem, refused := s.refused, regRdata := s.regRdata, draws := s.draws, hostData := s.hostData, dirty := s.dirty,
    doneUnread := s.doneUnread,
    stale := if s.status.busy then outputsToInvalidate s ++ s.stale else s.stale, schedule := s.schedule }

/-- The effect of a host action. Each is a step of the host agent (42_frame_iterator.md R181). -/
def hostStep (action : HostAction) (s : State) : State :=
  match action with
  | .memWrite a bytes => hostWrite a bytes s
  | .memRead a n => hostRead a n s
  | .cacheClean a n => cacheClean a n s
  | .cacheInvalidate a n => cacheInvalidate a n s
  | .reset => resetEvent s
  | .pollAgain word mask value pace => pollAgain word mask value pace s

/-- `WR <reg>, <value>` by the register's word index (30_encoding.md R109). -/
def turnWr (idx : BitVec 6) (value : Word) : Turn := .reg (fRegWord 1#1 (regOffset idx 0#2) value)

/-- `RD <reg>` by the register's word index (R109); DATA is written as 0 (R103). -/
def turnRd (idx : BitVec 6) : Turn := .reg (fRegWord 0#1 (regOffset idx 0#2) 0#32)

/-- `NOP`: `WR CMD, 0` (R110). -/
def pseudoNop : List Turn := [turnWr 0x03#6 0x00000000#32]

/-- `START`: `WR CMD, 1` (R110). -/
def pseudoStart : List Turn := [turnWr 0x03#6 0x00000001#32]

/-- `CLEAR`: `WR CMD, 2` (R110). -/
def pseudoClear : List Turn := [turnWr 0x03#6 0x00000002#32]

/-- `POLL <reg>, <mask>, <value>`: the read, and the branch back to it until the masked value matches (R110). The pace
gives the converter turns before each further read, which are the run's (log 21). -/
def pseudoPoll (idx : BitVec 6) (mask value : Word) (pace : List Nat) : List Turn :=
  [turnRd idx, .host (.pollAgain (fRegWord 0#1 (regOffset idx 0#2) 0#32) mask value pace)]

/-- `WAIT`: `POLL STATUS, 1, 0`, until BUSY = 0 (R110). -/
def pseudoWait (pace : List Nat) : List Turn := pseudoPoll 0x04#6 0x00000001#32 0x00000000#32 pace

/-- `SETUP <src>, <luma>, <u>, <v>, <s>, <h>` (R110). -/
def pseudoSetup (src luma u v : Addr) (stride height : Word) : List Turn :=
  [turnWr 0x05#6 src, turnWr 0x06#6 luma, turnWr 0x07#6 u, turnWr 0x08#6 v, turnWr 0x09#6 stride, turnWr 0x0A#6 height]

/-- `CONVERT <src>, <luma>, <u>, <v>, <s>, <h>`: SETUP, START, WAIT (R110). -/
def pseudoConvert (src luma u v : Addr) (stride height : Word) (pace : List Nat) : List Turn :=
  pseudoSetup src luma u v stride height ++ pseudoStart ++ pseudoWait pace

end Sys2Proof.Machine
end

