-- ==== Sys2Proof/Machine/Fetch.lean ====
section
/-! DEFINITION. Where the next instruction comes from. The block fetches no program (20_memory.md R92): its next
instruction is the register transaction the host presents, the row operation code on the row request bus, or the step
that the converter's selector names (42_frame_iterator.md R172). -/

namespace Sys2Proof.Machine

/-- What a turn asks for. -/
inductive Fetched where
  /-- An instruction of the opcode table. -/
  | instr (i : Instr)
  /-- An action of the host outside the register port. -/
  | action (a : HostAction)
  /-- A row operation code that frame_iterator does not drive in this state. -/
  | notDriven (op : BitVec 2)
deriving DecidableEq, Repr

/-- The converter's next step, by its selector alone (30_encoding.md R105, R107). -/
def converterInstr (s : State) : Instr := decode (.step (stepSelector s))

/-- What a turn asks for in a state. Register transactions are served in every state (43_host_interface.md R200). A row
operation code is acted on when frame_iterator drives it; the reserved code is never driven and treated as IDLE
(30_encoding.md R106). -/
def fetchTurn (t : Turn) (s : State) : Fetched :=
  match t with
  | .reg w => .instr (decode (.reg w))
  | .converter => .instr (converterInstr s)
  | .row op => if op = rowOp s ∨ op = 0b11#2 then .instr (decode (.row op)) else .notDriven op
  | .host a => .action a

/-- The next turn, and the state with that turn taken from the schedule. With no turn left it is the converter's
(log 7). -/
def fetch (s : State) : Fetched × State :=
  match s.schedule with
  | [] => (.instr (converterInstr s), s)
  | t :: rest => (fetchTurn t { s with schedule := rest }, { s with schedule := rest })

/-- The state with the row request bus driving a code: BUSY and PHASE as R106 needs them. -/
def driveRow (op : BitVec 2) (s : State) : State :=
  match op.toNat with
  | 0 => { s with status := { s.status with busy := false } }
  | 1 => { s with status := { s.status with busy := true, phase := false } }
  | 2 => { s with status := { s.status with busy := true, phase := true } }
  | _ => s

/-- The state with the step selector at a value: BUSY, PHASE and VEC are set, and `col` and `s_l` made equal or
different as END says (30_encoding.md R105). -/
def driveStep (sel : BitVec 4) (s : State) : State :=
  { s with
    build := { s.build with strategy := if sel.getLsbD 0 then .vector else .portable }
    status := { s.status with busy := sel.getLsbD 3, phase := sel.getLsbD 1 }
    work := { s.work with
      col := if sel.getLsbD 2 then s.work.rowStride else 0#32
      rowStride := if !sel.getLsbD 2 && s.work.rowStride == 0#32 then 32#32 else s.work.rowStride } }

/-- The state whose next step runs a word of one of the formats. -/
def presentWord (e : Encoded) (s : State) : State :=
  match e with
  | .reg w => { s with schedule := .reg w :: s.schedule }
  | .row op => { driveRow op s with schedule := .row op :: s.schedule }
  | .step sel => { driveStep sel s with schedule := .converter :: s.schedule }

end Sys2Proof.Machine
end

