-- ==== Sys2Proof/Machine/Step.lean ====
section
/-! DEFINITION. One step of the machine. -/

namespace Sys2Proof.Machine

/-- One step: the next turn is fetched, and its instruction is executed or its host action done. -/
def step (s : State) : Host.Outcome State Fault Refusal :=
  match fetch s with
  | (.instr i, t) => finishInstr s i (exec i t)
  | (.action a, t) => .next (settle s (hostStep a t))
  | (.notDriven op, _) => .refused (.rowOpNotDriven op)

/-- The state with a word of the opcode table stored where `step` finds its next instruction: at the head of the
schedule, with the selector or the row code driven as the word needs (log 7). -/
def State.withFetchWord (s : State) (nbits w : Nat) : State :=
  match tableWord nbits w with
  | .ok e => presentWord e s
  | .error _ => s

end Sys2Proof.Machine
end

