-- ==== Sys2Proof/Machine/Observation.lean ====
section
/-! DEFINITION. The converter's enabled step, the end of a run of a host program, and what is then observed
(42_frame_iterator.md R172, R189). -/

namespace Sys2Proof.Machine

/-- Whether the converter has an enabled step: BUSY = 1, and the step its selector names is not stuck (R172). -/
def converterEnabled (s : State) : Bool :=
  s.status.busy &&
    match exec (converterInstr s) s with
    | .next _ => true
    | .fault _ => false
    | .refused _ => false

/-- A run of a host program has ended: no statement is left, BUSY = 0, and the converter has no enabled step (R189). A
run that is stuck with BUSY = 1 has not ended. R189 also says that a refused run ends, and not when: DESIGN CHOICE (log 29),
it has ended as soon as it carries the mark, stuck or not. -/
def runEnded (s : State) : Bool := s.refused.isSome || (s.schedule.isEmpty && !s.status.busy && !converterEnabled s)

/-- What is observed of a run that has ended: the memory, the registers of 10_state.md and the `refused` mark (R189). CMD
stores nothing (10_state.md R41); `stage` is not observed. Whether those registers include the internal `s_l`, `pairs_l` and
`col` is open (00_scope.md R4 speaks of all the block's state as its registers, 10_state.md R26 sets internal state apart):
DESIGN CHOICE (log 30), they are the host-visible registers of R27 and the three are left out. -/
structure Observation where
  mem : Memory
  id : Word
  caps : Word
  ctrl : Word
  status : Word
  cfg : ConfigRegs
  srcPtr : Addr
  lumaPtr : Addr
  uPtr : Addr
  vPtr : Addr
  pairCnt : Word
  refused : Bool
deriving DecidableEq, Repr

/-- The observation of a state. -/
def observation (s : State) : Observation :=
  { mem := s.mem, id := Config.idValue, caps := Config.capsValue s.build.strategy, ctrl := ctrlWord s, status := s.status.word,
    cfg := s.cfg, srcPtr := s.work.srcPtr, lumaPtr := s.work.lumaPtr, uPtr := s.work.uPtr, vPtr := s.work.vPtr,
    pairCnt := s.work.pairCnt, refused := s.refused.isSome }

/-- The observation of a run, once it has ended (R189). Of a refused run no claim holds: all but its mark and the constants
ID and CAPS is free (00_scope.md R15, log 8). -/
def observed (s : State) : Option Observation := if runEnded s then some (observation (settle s s)) else none

end Sys2Proof.Machine
end

