-- ==== Sys2Proof/Safety.lean ====
section
/-! DEFINITION. What the claims mean by a good state: the invariants of 10_state.md R58, the pointer values of
42_frame_iterator.md R183, and how far a frame has come (R180, R185); and the premises of a run of a frame. -/

namespace Sys2Proof.Machine

/-- The invariants (a) to (g) of every reachable state (10_state.md R58). -/
abbrev StatusInvariant (s : State) : Prop :=
  (s.status.err = true ↔ s.status.errCode ≠ 0#4)
  ∧ (s.status.geomCause ≠ 0#5 ↔ s.status.err = true)
  ∧ (s.status.busy = true → s.status.done = false ∧ s.status.err = false)
  ∧ (s.status.done = true → s.status.err = false)
  ∧ (s.status.busy = false → s.status.phase = false)
  ∧ (s.status.busy = true →
      s.work.col.toNat % s.build.strategy.unitBytes = 0 ∧ s.work.col.toNat ≤ s.work.rowStride.toNat
      ∧ s.work.pairCnt.toNat < s.work.pairsL.toNat)
  ∧ (s.status.busy = true → geomCause s.build.strategy s.work.rowStride (2#32 * s.work.pairsL) = 0#5)

/-- The number of the source row in progress, from the position `(PAIR_CNT, PHASE)`; after the last row it is `h`
(42_frame_iterator.md R180, R183). -/
def rowIndex (s : State) : Nat := 2 * s.work.pairCnt.toNat + (if s.status.phase then 1 else 0)

/-- The values of the working registers, in terms of what START latched, while a row is processed and after completion
(42_frame_iterator.md R183); and `s_l`, `pairs_l` as latched (R171). -/
abbrev PointerInvariant (s : State) : Prop :=
  s.status.busy = true ∨ s.status.done = true →
    match s.conv with
    | none => False
    | some c =>
      s.work.rowStride = c.stride
      ∧ 2 * s.work.pairsL.toNat = c.height.toNat
      ∧ s.work.srcPtr = c.srcBase + BitVec.ofNat 32 (rowIndex s * c.stride.toNat)
      ∧ s.work.lumaPtr = c.lumaBase + BitVec.ofNat 32 (rowIndex s * (c.stride.toNat / 2))
      ∧ s.work.uPtr = c.uBase + BitVec.ofNat 32 ((rowIndex s + 1) / 2 * (c.stride.toNat / 4))
      ∧ s.work.vPtr = c.vBase + BitVec.ofNat 32 ((rowIndex s + 1) / 2 * (c.stride.toNat / 4))
      ∧ (s.status.done = true → s.work.pairCnt = s.work.pairsL)

/-- Whether the source byte at offset `x` of source row `r` has been processed: its position comes before the
converter's (42_frame_iterator.md R180). -/
def processed (s : State) (r x : Nat) : Prop := r < rowIndex s ∨ (r = rowIndex s ∧ x < s.work.col.toNat)

/-- How far the frame in progress has come, for a conversion `c` (42_frame_iterator.md R175, R185, 70_reset_and_hazards.md
R261): the source bytes are as at START; each output byte whose source byte has been processed is that byte; every
other output byte is as it was at START. -/
def FrameProgressOf (c : Conversion) (s : State) : Prop :=
  (∀ i, i < c.height.toNat * c.stride.toNat → s.byteAt (c.srcBase + BitVec.ofNat 32 i) = c.sourceByte i)
  ∧ (∀ r i, r < c.height.toNat → i < c.stride.toNat / 2 →
      let a := c.lumaBase + BitVec.ofNat 32 (r * (c.stride.toNat / 2) + i)
      (processed s r (2 * i) → s.byteAt a = c.sourceByte (r * c.stride.toNat + 2 * i))
      ∧ (¬ processed s r (2 * i) → s.byteAt a = Memory.read c.startMem a.toNat))
  ∧ (∀ k j, k < c.height.toNat / 2 → j < c.stride.toNat / 4 →
      let a := c.uBase + BitVec.ofNat 32 (k * (c.stride.toNat / 4) + j)
      (processed s (2 * k) (4 * j) → s.byteAt a = c.sourceByte (2 * k * c.stride.toNat + 4 * j + 1))
      ∧ (¬ processed s (2 * k) (4 * j) → s.byteAt a = Memory.read c.startMem a.toNat))
  ∧ (∀ k j, k < c.height.toNat / 2 → j < c.stride.toNat / 4 →
      let a := c.vBase + BitVec.ofNat 32 (k * (c.stride.toNat / 4) + j)
      (processed s (2 * k) (4 * j) → s.byteAt a = c.sourceByte (2 * k * c.stride.toNat + 4 * j + 3))
      ∧ (¬ processed s (2 * k) (4 * j) → s.byteAt a = Memory.read c.startMem a.toNat))

/-- In a run that is not refused, the conversion in progress meets its premises (60_exceptions.md R236) and its frame
has come as far as its position says. -/
def FrameInvariant (s : State) : Prop :=
  s.status.busy = true → s.refused = none →
    match s.conv with
    | none => False
    | some c => c.premisesHold = true ∧ FrameProgressOf c s

/-- Everything the frame claims need of a state. -/
def FrameReady (s : State) : Prop := StatusInvariant s ∧ PointerInvariant s ∧ FrameInvariant s

/-- The plane contents that 42_frame_iterator.md R185 gives for a complete frame of `c`, in the memory of a state. -/
def FrameWritten (c : Conversion) (t : State) : Prop :=
  (∀ r i, r < c.height.toNat → i < c.stride.toNat / 2 →
      t.byteAt (c.lumaBase + BitVec.ofNat 32 (r * (c.stride.toNat / 2) + i)) = c.sourceByte (r * c.stride.toNat + 2 * i))
  ∧ (∀ k j, k < c.height.toNat / 2 → j < c.stride.toNat / 4 →
      t.byteAt (c.uBase + BitVec.ofNat 32 (k * (c.stride.toNat / 4) + j))
        = c.sourceByte (2 * k * c.stride.toNat + 4 * j + 1)
      ∧ t.byteAt (c.vBase + BitVec.ofNat 32 (k * (c.stride.toNat / 4) + j))
        = c.sourceByte (2 * k * c.stride.toNat + 4 * j + 3))

/-- Every byte of the conversion's regions is admitted for the direction in which the conversion uses it
(20_memory.md R80). -/
def ConversionAdmitted (b : Build) (c : Conversion) : Prop :=
  ∀ a, (c.srcRegion.contains a = true → b.admitsByte false a = true)
    ∧ (c.isOutput a = true → b.admitsByte true a = true)

/-- The machine is idle, not refused, with no host turn left and its cache duties (a) and (b) shown (always so with
COHERENT = 1), and its registers hold a geometry and bases that a START accepts and whose premises hold; every byte of its
regions is admitted (42_frame_iterator.md R188, 20_memory.md R93). -/
def ReadyToConvert (s : State) : Prop :=
  s.status.busy = false ∧ s.refused = none ∧ s.schedule = [] ∧ cacheDutiesShown s (latched s) = true
  ∧ geomCause s.build.strategy s.cfg.stride s.cfg.height = 0#5
  ∧ (latched s).premisesHold = true ∧ ConversionAdmitted s.build (latched s)

/-- The number of converter steps of a frame, `h × (s/G + 1)` (42_frame_iterator.md R188). -/
def frameSteps (st : Strategy) (s h : Word) : Nat := h.toNat * (s.toNat / st.unitBytes + 1)

/-- An instruction repeated, as long as it answers a next state. -/
def execRepeat (i : Instr) : Nat → State → Host.Outcome State Fault Refusal
  | 0, s => .next s
  | k + 1, s =>
    match exec i s with
    | .next t => execRepeat i k t
    | .fault r => .fault r
    | .refused r => .refused r

/-- The unit operation of an even row, by strategy (40_even_row_unpacker.md R132). -/
def evenUnit : Strategy → Instr
  | .portable => .groupEven
  | .vector => .blockEven

/-- The unit operation of an odd row, by strategy (41_odd_row_unpacker.md R150). -/
def oddUnit : Strategy → Instr
  | .portable => .groupOdd
  | .vector => .blockOdd

/-- Whether the transactions of the strategy's even unit at `col` are admitted (20_memory.md R74, R80). -/
def evenUnitAdmitted (s : State) : Bool :=
  let n := s.build.strategy.unitBytes
  s.build.admits false s.unitSrc n && s.build.admits true s.unitLuma (n / 2) && s.build.admits true s.unitU (n / 4)
    && s.build.admits true s.unitV (n / 4)

/-- Whether the transactions of the strategy's odd unit at `col` are admitted (R74, R80). -/
def oddUnitAdmitted (s : State) : Bool :=
  let n := s.build.strategy.unitBytes
  s.build.admits false s.unitSrc n && s.build.admits true s.unitLuma (n / 2)

/-- Whether a row operation does the rest of its row unit by unit, with `unit` the operation of the strategy: all its
units; or, when a later unit is not admitted, the units before it; or none, stuck, when its first is not
(40_even_row_unpacker.md R132, 41_odd_row_unpacker.md R150, 20_memory.md R80, log 22). -/
def RowIsItsUnits (row : Instr) (unit : Instr) (admitted : Bool) (s : State) : Prop :=
  (∀ t, execRepeat unit (unitsLeft s) s = .next t → exec row s = .next t)
  ∧ (∀ k t, 0 < k → k < unitsLeft s → execRepeat unit k s = .next t → exec unit t = .fault .notAdmitted →
      exec row s = .next t)
  ∧ (unitsLeft s ≠ 0 → admitted = false → exec row s = .fault .notAdmitted)
  ∧ (unitsLeft s = 0 → exec row s = .next s)
  ∧ (admitted = true → ∃ t, exec row s = .next t ∧ t.refused = s.refused ∧ t.build = s.build
      ∧ (s.refused = none → t.cfg = s.cfg ∧ t.irqEn = s.irqEn))

/-- The rules determine a step's next state: the run is not refused, or it is the START that refuses it, after which the
hardware has started the frame (42_frame_iterator.md R171). In all other steps of refused runs the state is free (log 8). -/
def Determinate (s t : State) : Prop :=
  t.refused = none ∨ (s.refused = none ∧ ∃ lo s', fetch s = (.instr (.start lo), s'))

/-- What a step that leaves the machine free keeps: the build, the mark, the model's own records, how many bytes the host last
read, and memory's canonical form (log 8). -/
def OnlyRecordsKept (s t : State) : Prop :=
  t.build = s.build ∧ t.refused = s.refused ∧ t.conv = s.conv ∧ t.dirty = s.dirty ∧ t.doneUnread = s.doneUnread
  ∧ t.stale = s.stale ∧ t.schedule = s.schedule ∧ t.hostData.length = s.hostData.length ∧ (s.mem.wf → t.mem.wf)

/-- A host write of the byte at an address goes into a running conversion's region (60_exceptions.md R237). -/
def HitsRunning (s : State) (x : Addr) : Prop := s.status.busy = true ∧ ∃ c, s.conv = some c ∧ c.inRegions x = true

/-- The command writes other than NOP (43_host_interface.md R204). -/
def isCommand : Instr → Bool
  | .start _ | .clear _ | .ignoredOp _ | .ignoredRsv _ _ => true
  | _ => false

/-- The writes of a configuration register (10_state.md R42 to R47). -/
def isConfigWrite : Instr → Bool
  | .wrSrcBase _ _ | .wrLumaBase _ _ | .wrUBase _ _ | .wrVBase _ _ | .wrStride _ _ | .wrHeight _ _ => true
  | _ => false

/-- The operations of the two unpackers: units and rows (40_even_row_unpacker.md, 41_odd_row_unpacker.md). -/
def isUnpack : Instr → Bool
  | .groupEven | .blockEven | .groupOdd | .blockOdd | .rowEven | .rowOdd => true
  | _ => false

/-- The row ends (42_frame_iterator.md R176, R177). -/
def isAdvance : Instr → Bool
  | .rowAdvanceEven _ | .rowAdvanceOdd _ => true
  | _ => false

/-- The register reads (43_host_interface.md R203). -/
def isRead : Instr → Bool
  | .rdId _ _ | .rdCaps _ _ | .rdCtrl _ _ | .rdCmd _ _ | .rdStatus _ _ | .rdSrcBase _ _ | .rdLumaBase _ _ | .rdUBase _ _
  | .rdVBase _ _ | .rdStride _ _ | .rdHeight _ _ | .rdSrcPtr _ _ | .rdLumaPtr _ _ | .rdUPtr _ _ | .rdVPtr _ _
  | .rdPairCnt _ _ | .rdRsv40 _ _ | .rdRsv80 _ _ | .rdRsvC0 _ _ => true
  | _ => false

/-- The position `(PAIR_CNT, PHASE, col)` of one state is before that of another, lexicographically, even before odd
(42_frame_iterator.md R180). -/
def positionBefore (s t : State) : Prop :=
  rowIndex s < rowIndex t ∨ (rowIndex s = rowIndex t ∧ s.work.col.toNat < t.work.col.toNat)

/-- The transactions of a step are inside the regions of a conversion: reads in SRC_REGION, writes in an output region
(20_memory.md R79). -/
def portInside (c : Conversion) (port : List MemTxn) : Prop :=
  ∀ x ∈ port,
    match x with
    | .read a n _ => ∀ k, k < n → c.srcRegion.contains (a + BitVec.ofNat 32 k) = true
    | .write a data => ∀ k, k < data.length → c.isOutput (a + BitVec.ofNat 32 k) = true

/-- The final working registers of a complete frame (42_frame_iterator.md R183). -/
def finalRegisters (c : Conversion) (t : State) : Prop :=
  t.work.srcPtr = c.srcBase + BitVec.ofNat 32 (c.height.toNat * c.stride.toNat)
  ∧ t.work.lumaPtr = c.lumaBase + BitVec.ofNat 32 (c.height.toNat * (c.stride.toNat / 2))
  ∧ t.work.uPtr = c.uBase + BitVec.ofNat 32 (c.height.toNat / 2 * (c.stride.toNat / 4))
  ∧ t.work.vPtr = c.vBase + BitVec.ofNat 32 (c.height.toNat / 2 * (c.stride.toNat / 4))
  ∧ t.work.pairCnt = c.height / 2#32

end Sys2Proof.Machine
end

