-- ==== Sys2Proof/Certificates/Slice0/Obligations.lean ====
section
/-! DEFINITION. The statements about the model, for the provers. Each docstring names the rule of spec/ it formalises. -/

open Sys2Proof Sys2Proof.Machine

/-! ### Encodings -/

/-- Words written out in the spec decode to the instructions they stand for (30_encoding.md R101, R106, R107, R111). -/
def Obligations.ListedWordsDecode : Prop :=
  decode (.reg 0x12400000008#41) = .wrStride 0#2 8#32
  ∧ decode (.reg 0x01000000000#41) = .rdStatus 0#2 0#32
  ∧ decode (.reg 0x10C00000001#41) = .start 0#2
  ∧ decode (.reg 0x10D00000001#41) = .start 1#2
  ∧ decode (.reg 0x10C00000005#41) = .ignoredRsv 0#2 5#32
  ∧ decode (.reg 0x0FC00000000#41) = .rdRsvC0 0x3C#6 0#32
  ∧ decode (.row 0b10#2) = .rowOdd
  ∧ decode (.step 0b1001#4) = .blockEven
  ∧ decode (.step 0b1111#4) = .rowAdvanceOdd true

/-- Decoding the encoding of a well-formed instruction gives the instruction back, in every format. -/
def Obligations.DecodeOfEncode : Prop := ∀ i : Instr, i.wellFormed = true → decode (encode i) = i

/-- Every word of every format is the encoding of the well-formed instruction it decodes to: no bit is dropped and no
word is refused (30_encoding.md R108). -/
def Obligations.EncodeOfDecode : Prop := ∀ e : Encoded, (decode e).wellFormed = true ∧ encode (decode e) = e

/-- The command decode of 30_encoding.md R101: RSV, bits 31:2, is tested first, then OP; both IGNORED forms execute as
ignored commands. -/
def Obligations.CommandDecodeOrder : Prop :=
  (∀ (lo : BitVec 2) (data : Word),
    let d := decode (.reg (fRegWord 1#1 (regOffset 0x03#6 lo) data))
    (data.extractLsb' 2 30 ≠ 0#30 → d = .ignoredRsv lo data)
    ∧ (data.extractLsb' 2 30 = 0#30 →
      (data.extractLsb' 0 2 = 0b00#2 → d = .nop lo) ∧ (data.extractLsb' 0 2 = 0b01#2 → d = .start lo)
      ∧ (data.extractLsb' 0 2 = 0b10#2 → d = .clear lo) ∧ (data.extractLsb' 0 2 = 0b11#2 → d = .ignoredOp lo)))
  ∧ decodeCmd 0#2 0x00000000#32 = .nop 0#2 ∧ decodeCmd 0#2 0x00000001#32 = .start 0#2
  ∧ decodeCmd 0#2 0x00000002#32 = .clear 0#2
  ∧ ∀ (lo : BitVec 2) (data : Word) (s : State),
    exec (.ignoredRsv lo data) s = .next { s with status := { s.status with cmdIgnored := true } }
    ∧ exec (.ignoredOp lo) s = .next { s with status := { s.status with cmdIgnored := true } }

/-- A transaction's register is chosen by OFFSET[7:2] alone: OFFSET[1:0] changes nothing, and neither does the DATA of a
read (30_encoding.md R103, 43_host_interface.md R201). -/
def Obligations.IgnoredBitsHaveNoEffect : Prop :=
  (∀ (w : BitVec 1) (idx : BitVec 6) (lo lo' : BitVec 2) (data : Word) (s : State),
    exec (decode (.reg (fRegWord w (regOffset idx lo) data))) s
      = exec (decode (.reg (fRegWord w (regOffset idx lo') data))) s)
  ∧ (∀ (off : BitVec 8) (data data' : Word) (s : State),
    exec (decode (.reg (fRegWord 0#1 off data))) s = exec (decode (.reg (fRegWord 0#1 off data'))) s)

/-- Reserved offsets: a read of any offset from 0x40 on returns 0, a write has no effect, and nothing is recorded
(10_state.md R28). -/
def Obligations.ReservedOffsetsReadZero : Prop :=
  ∀ (off : BitVec 8) (data : Word) (s : State), 0x40 ≤ off.toNat →
    exec (decode (.reg (fRegWord 0#1 off data))) s = .next { s with regRdata := 0#32 }
    ∧ exec (decode (.reg (fRegWord 1#1 off data))) s = .next s

/-- The same, for each constructor of the reserved rows. -/
def Obligations.ReservedRowsComplete : Prop :=
  ∀ (low : BitVec 6) (data : Word) (s : State),
    exec (.rdRsv40 low data) s = .next { s with regRdata := 0#32 }
    ∧ exec (.rdRsv80 low data) s = .next { s with regRdata := 0#32 }
    ∧ exec (.rdRsvC0 low data) s = .next { s with regRdata := 0#32 }
    ∧ exec (.wrRsv40 low data) s = .next s ∧ exec (.wrRsv80 low data) s = .next s ∧ exec (.wrRsvC0 low data) s = .next s

/-- The F-STEP decode table (30_encoding.md R105, R107): the converter's next step is a function of BUSY, END, PHASE and
VEC alone. -/
def Obligations.StepSelectorTable : Prop :=
  ∀ s : State,
    let isEnd := s.work.col = s.work.rowStride
    (s.status.busy = false → ∃ e p v, converterInstr s = .stepIdle e p v)
    ∧ (s.status.busy = true → ¬ isEnd → s.status.phase = false → s.build.strategy = .portable → converterInstr s = .groupEven)
    ∧ (s.status.busy = true → ¬ isEnd → s.status.phase = false → s.build.strategy = .vector → converterInstr s = .blockEven)
    ∧ (s.status.busy = true → ¬ isEnd → s.status.phase = true → s.build.strategy = .portable → converterInstr s = .groupOdd)
    ∧ (s.status.busy = true → ¬ isEnd → s.status.phase = true → s.build.strategy = .vector → converterInstr s = .blockOdd)
    ∧ (s.status.busy = true → isEnd → s.status.phase = false → ∃ v, converterInstr s = .rowAdvanceEven v)
    ∧ (s.status.busy = true → isEnd → s.status.phase = true → ∃ v, converterInstr s = .rowAdvanceOdd v)

/-- The row operation code that frame_iterator drives, the names of the codes, and that IDLE and the reserved code start no
row (30_encoding.md R106). -/
def Obligations.RowCodeDriven : Prop :=
  (∀ s : State,
    (s.status.busy = true → s.status.phase = false → rowOp s = 0b01#2)
    ∧ (s.status.busy = true → s.status.phase = true → rowOp s = 0b10#2)
    ∧ (s.status.busy = false → rowOp s = 0b00#2)
    ∧ rowOp s ≠ 0b11#2
    ∧ exec .rowIdle s = .next s ∧ exec .rowRsv s = exec .rowIdle s)
  ∧ decode (.row 0b00#2) = .rowIdle ∧ decode (.row 0b01#2) = .rowEven ∧ decode (.row 0b10#2) = .rowOdd
  ∧ decode (.row 0b11#2) = .rowRsv

/-! ### Registers -/

/-- A write to a read-only register has no effect on any state (43_host_interface.md R202), by instruction and by word. -/
def Obligations.ReadOnlyWritesIgnored : Prop :=
  (∀ (lo : BitVec 2) (data : Word) (s : State),
    exec (.wrId lo data) s = .next s ∧ exec (.wrCaps lo data) s = .next s ∧ exec (.wrStatus lo data) s = .next s
    ∧ exec (.wrSrcPtr lo data) s = .next s ∧ exec (.wrLumaPtr lo data) s = .next s ∧ exec (.wrUPtr lo data) s = .next s
    ∧ exec (.wrVPtr lo data) s = .next s ∧ exec (.wrPairCnt lo data) s = .next s)
  ∧ ∀ idx ∈ [0x00#6, 0x01#6, 0x04#6, 0x0B#6, 0x0C#6, 0x0D#6, 0x0E#6, 0x0F#6],
    ∀ (lo : BitVec 2) (data : Word) (s : State),
      exec (decode (.reg (fRegWord 1#1 (regOffset idx lo) data))) s = .next s

/-- A read returns its register's value and changes nothing else: ID (10_state.md R30), CAPS by build (R31), CTRL,
CMD as 0, STATUS, the configuration registers, the working pointers and PAIR_CNT. -/
def Obligations.ReadsReturnRegisters : Prop :=
  ∀ (lo : BitVec 2) (data : Word) (s : State),
    exec (.rdId lo data) s = .next { s with regRdata := 0x59550420#32 }
    ∧ (s.build.strategy = .portable → exec (.rdCaps lo data) s = .next { s with regRdata := 0x00200400#32 })
    ∧ (s.build.strategy = .vector → exec (.rdCaps lo data) s = .next { s with regRdata := 0x00202001#32 })
    ∧ exec (.rdCtrl lo data) s = .next { s with regRdata := if s.irqEn then 1#32 else 0#32 }
    ∧ exec (.rdCmd lo data) s = .next { s with regRdata := 0#32 }
    ∧ exec (.rdStatus lo data) s = .next { s with regRdata := s.status.word }
    ∧ exec (.rdSrcBase lo data) s = .next { s with regRdata := s.cfg.srcBase }
    ∧ exec (.rdLumaBase lo data) s = .next { s with regRdata := s.cfg.lumaBase }
    ∧ exec (.rdUBase lo data) s = .next { s with regRdata := s.cfg.uBase }
    ∧ exec (.rdVBase lo data) s = .next { s with regRdata := s.cfg.vBase }
    ∧ exec (.rdStride lo data) s = .next { s with regRdata := s.cfg.stride }
    ∧ exec (.rdHeight lo data) s = .next { s with regRdata := s.cfg.height }
    ∧ exec (.rdSrcPtr lo data) s = .next { s with regRdata := s.work.srcPtr }
    ∧ exec (.rdLumaPtr lo data) s = .next { s with regRdata := s.work.lumaPtr }
    ∧ exec (.rdUPtr lo data) s = .next { s with regRdata := s.work.uPtr }
    ∧ exec (.rdVPtr lo data) s = .next { s with regRdata := s.work.vPtr }
    ∧ exec (.rdPairCnt lo data) s = .next { s with regRdata := s.work.pairCnt }

/-- The fields of STATUS stand where 10_state.md R33 puts them, and the reserved bits read 0. -/
def Obligations.StatusWordLayout : Prop :=
  ∀ t : Status,
    t.word.getLsbD 0 = t.busy ∧ t.word.getLsbD 1 = t.done ∧ t.word.getLsbD 2 = t.err ∧ t.word.getLsbD 3 = t.cmdIgnored
    ∧ t.word.getLsbD 4 = t.phase ∧ t.word.extractLsb' 5 3 = 0#3 ∧ t.word.extractLsb' 8 5 = t.geomCause
    ∧ t.word.extractLsb' 13 3 = 0#3 ∧ t.word.extractLsb' 16 4 = t.errCode ∧ t.word.extractLsb' 20 12 = 0#12

/-- A write to CTRL stores IRQ_EN from bit 0, in every state, and changes nothing else; the reserved bits read 0
(10_state.md R32). -/
def Obligations.CtrlWriteStoresIrqEnable : Prop :=
  ∀ (lo lo' : BitVec 2) (data data' : Word) (s : State),
    exec (.wrCtrl lo data) s = .next { s with irqEn := data.getLsbD 0 }
    ∧ exec (.rdCtrl lo' data') { s with irqEn := data.getLsbD 0 }
      = .next { s with irqEn := data.getLsbD 0, regRdata := data &&& 1#32 }

/-- A write to a configuration register is stored whole, in every state, and changes nothing else, so nothing of a
conversion in progress (10_state.md R42 to R47, 43_host_interface.md R209). -/
def Obligations.ConfigWritesStored : Prop :=
  ∀ (lo : BitVec 2) (data : Word) (s : State),
    exec (.wrSrcBase lo data) s = .next { s with cfg := { s.cfg with srcBase := data } }
    ∧ exec (.wrLumaBase lo data) s = .next { s with cfg := { s.cfg with lumaBase := data } }
    ∧ exec (.wrUBase lo data) s = .next { s with cfg := { s.cfg with uBase := data } }
    ∧ exec (.wrVBase lo data) s = .next { s with cfg := { s.cfg with vBase := data } }
    ∧ exec (.wrStride lo data) s = .next { s with cfg := { s.cfg with stride := data } }
    ∧ exec (.wrHeight lo data) s = .next { s with cfg := { s.cfg with height := data } }

/-- Which instructions change which state, over all instructions: STATUS only by commands and row ends (10_state.md R33);
CTRL and the configuration only by their writes (R32, R42 to R47); the working registers only by START, the unpackers and
the row ends (43_host_interface.md R204); memory and `stage` only by the unpackers (20_memory.md R70, R74); `reg_rdata` only by
reads; the refused mark only by START. In a refused run the unpackers and row ends leave all of these free but the mark, and
they alone draw free values: the model's choice (logs 8, 16). The model's own fields: the port's record only by the unpackers
and row ends (log 11), `conv` only by START (log 26), `doneUnread` only by a row end (log 6); the build and launch, `dirty` and
`stale` (log 6) and the schedule (log 7) by none. -/
def Obligations.OnlyTheseChangeEachState : Prop :=
  ∀ (i : Instr) (s t : State), exec i s = .next t →
    let freed : Prop := s.refused ≠ none ∧ (isUnpack i = true ∨ isAdvance i = true)
    (t.status ≠ s.status → isCommand i = true ∨ isAdvance i = true ∨ freed)
    ∧ (t.irqEn ≠ s.irqEn → (∃ lo data, i = .wrCtrl lo data) ∨ freed)
    ∧ (t.cfg ≠ s.cfg → isConfigWrite i = true ∨ freed)
    ∧ (t.work ≠ s.work → (∃ lo, i = .start lo) ∨ isUnpack i = true ∨ isAdvance i = true)
    ∧ (t.mem ≠ s.mem ∨ t.stage ≠ s.stage → isUnpack i = true ∨ freed)
    ∧ (t.memPort ≠ s.memPort → isUnpack i = true ∨ isAdvance i = true)
    ∧ (t.regRdata ≠ s.regRdata → isRead i = true ∨ freed)
    ∧ (t.conv ≠ s.conv ∨ t.refused ≠ s.refused → ∃ lo, i = .start lo)
    ∧ (t.doneUnread ≠ s.doneUnread → isAdvance i = true)
    ∧ (t.draws ≠ s.draws ∨ t.hostData ≠ s.hostData → freed)
    ∧ t.build = s.build ∧ t.dirty = s.dirty ∧ t.stale = s.stale ∧ t.schedule = s.schedule

/-! ### Commands -/

/-- NOP, the word 0 written to CMD, has no effect, idle or busy (43_host_interface.md R205). -/
def Obligations.NopHasNoEffect : Prop :=
  decode (.reg 0x10C00000000#41) = .nop 0#2 ∧ ∀ (lo : BitVec 2) (s : State), exec (.nop lo) s = .next s

/-- The four cases of an ignored command: CMD_IGNORED becomes 1 and nothing else changes; `irq` is unchanged
(43_host_interface.md R208). -/
def Obligations.IgnoredCommandsSetOnlyCmdIgnored : Prop :=
  ∀ (lo : BitVec 2) (data : Word) (s : State),
    let t := { s with status := { s.status with cmdIgnored := true } }
    (s.status.busy = true → exec (.start lo) s = .next t)
    ∧ (s.status.busy = true → exec (.clear lo) s = .next t)
    ∧ exec (.ignoredRsv lo data) s = .next t
    ∧ exec (.ignoredOp lo) s = .next t
    ∧ irq t = irq s

/-- A START whose geometry fails writes ERR, ERR_CODE = 1 and the causes, with the last outcome cleared, and nothing else:
no memory, no working register; and no other step raises the error (60_exceptions.md R230), where the rules determine the
step. That ERR is free in the other steps of refused runs is the model's choice (log 8). -/
def Obligations.StartRaisesInvalidGeometry : Prop :=
  (∀ (lo : BitVec 2) (s : State), s.status.busy = false → geomCause s.build.strategy s.cfg.stride s.cfg.height ≠ 0#5 →
    exec (.start lo) s = .next { s with status := { s.status with
      done := false, err := true, errCode := 1#4, geomCause := geomCause s.build.strategy s.cfg.stride s.cfg.height } })
  ∧ ∀ s t : State, step s = .next t → Determinate s t → t.status.err = true →
    (s.status.err = true ∧ t.status.errCode = s.status.errCode ∧ t.status.geomCause = s.status.geomCause)
    ∨ (s.status.busy = false ∧ geomCause s.build.strategy s.cfg.stride s.cfg.height ≠ 0#5
        ∧ ∃ lo s', fetch s = (.instr (.start lo), s'))

/-- The frame start of an accepted START whose geometry passes (42_frame_iterator.md R171, 43_host_interface.md R206): the
latch; BUSY 1, PHASE 0, the last outcome cleared, CMD_IGNORED kept; no memory access; and the refused mark: kept when it is
set; set when the premises fail (60_exceptions.md R236); not set when they hold and COHERENT = 1 or no dirty line meets a
region; set when they hold and a duty (a) or (b) of 20_memory.md R93 is not shown. How dirty lines are recorded is the model's
choice (log 6), and so are the record `conv` (log 26) and the reason `cacheDutyNotShown`, which the spec does not name (log 31). -/
def Obligations.StartLatchesFrame : Prop :=
  ∀ (lo : BitVec 2) (s : State), s.status.busy = false → geomCause s.build.strategy s.cfg.stride s.cfg.height = 0#5 →
    let c := latched s
    let clean : Prop := ∀ d ∈ s.dirty, d.disjoint c.srcRegion = true ∧ d.disjoint c.lumaRegion = true
      ∧ d.disjoint c.uRegion = true ∧ d.disjoint c.vRegion = true
    ∃ t, exec (.start lo) s = .next t
      ∧ t.work = { srcPtr := s.cfg.srcBase, lumaPtr := s.cfg.lumaBase, uPtr := s.cfg.uBase, vPtr := s.cfg.vBase,
                   pairCnt := 0#32, rowStride := s.cfg.stride, pairsL := s.cfg.height / 2#32, col := 0#32 }
      ∧ t.status = { busy := true, done := false, err := false, cmdIgnored := s.status.cmdIgnored, phase := false,
                     geomCause := 0#5, errCode := 0#4 }
      ∧ t.conv = some { srcBase := s.cfg.srcBase, lumaBase := s.cfg.lumaBase, uBase := s.cfg.uBase, vBase := s.cfg.vBase,
                        stride := s.cfg.stride, height := s.cfg.height, startMem := s.mem }
      ∧ (∀ r, s.refused = some r → t.refused = some r)
      ∧ (s.refused = none →
          (c.premisesHold = false → t.refused = some .overlapOrSize)
          ∧ (c.premisesHold = true → s.build.coherent = true ∨ clean → t.refused = none)
          ∧ (c.premisesHold = true → s.build.coherent = false → ¬ clean → t.refused = some .cacheDutyNotShown))
      ∧ t = { s with work := t.work, status := t.status, conv := t.conv, refused := t.refused }

/-- An accepted CLEAR clears DONE, ERR, ERR_CODE, GEOM_CAUSE and CMD_IGNORED, changes nothing else, and leaves `irq` low; a
CLEAR while BUSY is ignored (43_host_interface.md R207). -/
def Obligations.ClearClearsOutcome : Prop :=
  decode (.reg 0x10C00000002#41) = .clear 0#2
  ∧ ∀ (lo : BitVec 2) (s : State),
    let t := { s with status := { s.status with
      done := false, err := false, errCode := 0#4, geomCause := 0#5, cmdIgnored := false } }
    (s.status.busy = false → exec (.clear lo) s = .next t ∧ irq t = false)
    ∧ (s.status.busy = true → exec (.clear lo) s = .next { s with status := { s.status with cmdIgnored := true } })

/-- The five geometry checks, one bit each, every failing one set, and what an accepted START records: the causes of the
current STRIDE and HEIGHT, none when the geometry passes (42_frame_iterator.md R170). -/
def Obligations.GeometryCauseBits : Prop :=
  (∀ (st : Strategy) (s h : Word),
    ((geomCause st s h).getLsbD 0 = true ↔ s.toNat = 0)
    ∧ ((geomCause st s h).getLsbD 1 = true ↔ h.toNat = 0)
    ∧ ((geomCause st s h).getLsbD 2 = true ↔ s.toNat % 4 ≠ 0)
    ∧ ((geomCause st s h).getLsbD 3 = true ↔ h.toNat % 2 ≠ 0)
    ∧ ((geomCause st s h).getLsbD 4 = true ↔ st = .vector ∧ s.toNat % 32 ≠ 0))
  ∧ ∀ (lo : BitVec 2) (s : State), s.status.busy = false →
    ∃ t, exec (.start lo) s = .next t
      ∧ t.status.geomCause = geomCause s.build.strategy s.cfg.stride s.cfg.height
      ∧ (t.status.busy = true ↔ geomCause s.build.strategy s.cfg.stride s.cfg.height = 0#5)

/-- The premises of a frame (60_exceptions.md R236) hold exactly when the four regions of 20_memory.md R78 are pairwise
disjoint as sets of addresses and each one's unbounded size is at most `2^32`. -/
def Obligations.PremisesAreDisjointRegions : Prop :=
  ∀ c : Conversion,
    let member (base : Addr) (size : Nat) (a : Addr) : Prop := ∃ i, i < size ∧ a = base + BitVec.ofNat 32 i
    let s := c.stride.toNat
    let h := c.height.toNat
    let src := member c.srcBase (h * s)
    let luma := member c.lumaBase (h * (s / 2))
    let u := member c.uBase ((h / 2) * (s / 4))
    let v := member c.vBase ((h / 2) * (s / 4))
    c.premisesHold = true ↔
      (∀ a, ¬ (src a ∧ luma a) ∧ ¬ (src a ∧ u a) ∧ ¬ (src a ∧ v a) ∧ ¬ (luma a ∧ u a) ∧ ¬ (luma a ∧ v a) ∧ ¬ (u a ∧ v a))
      ∧ h * s ≤ 2 ^ 32 ∧ h * (s / 2) ≤ 2 ^ 32 ∧ (h / 2) * (s / 4) ≤ 2 ^ 32

/-! ### The interrupt -/

/-- In a run that is not refused, and at the START that refuses it, `irq` falls only at an accepted START or CLEAR, at a write
of 0 to IRQ_EN, or at reset (60_exceptions.md R240). In a refused run DONE, ERR and IRQ_EN are free: the model's choice
(log 8). -/
def Obligations.IrqFallsOnlyByHost : Prop :=
  ∀ s t : State, step s = .next t → Determinate s t → irq s = true → irq t = false →
    ∃ s', (fetch s = (.action .reset, s'))
      ∨ (∃ lo, (fetch s = (.instr (.start lo), s') ∨ fetch s = (.instr (.clear lo), s')) ∧ s.status.busy = false)
      ∨ (∃ lo data, fetch s = (.instr (.wrCtrl lo data), s') ∧ data.getLsbD 0 = false)

/-- In a run that is not refused, and at the START that refuses it, `irq` rises only when a frame completes, when a START fails
its geometry check, or when the host sets IRQ_EN while DONE or ERR is 1 (60_exceptions.md R240). In a refused run DONE, ERR and
IRQ_EN are free: the model's choice (log 8). -/
def Obligations.IrqRisesOnlyAtThese : Prop :=
  ∀ s t : State, step s = .next t → Determinate s t → irq s = false → irq t = true →
    (s.irqEn = true ∧ ∃ v s', fetch s = (.instr (.rowAdvanceOdd v), s') ∧ t.status.done = true)
    ∨ (s.irqEn = true ∧ ∃ lo s', fetch s = (.instr (.start lo), s') ∧ t.status.err = true)
    ∨ (∃ lo data s', fetch s = (.instr (.wrCtrl lo data), s') ∧ data.getLsbD 0 = true
        ∧ (s.status.done = true ∨ s.status.err = true))

/-! ### The unpackers -/

/-- GROUP_EVEN (40_even_row_unpacker.md R131), in a run that is not refused. If its four transactions are admitted, `Y0`
and `Y1` go to `LUMA_PTR + col/2` and the next address, `U` to `U_PTR + col/4`, `V` to `V_PTR + col/4`, in this order, `col`
grows by 4, every other byte and all other state stay; if one is not admitted, the step does not happen. -/
def Obligations.GroupEvenCopiesGroup : Prop :=
  ∀ s : State, s.refused = none →
    let b (p : Nat) : Byte := s.byteAt (s.unitSrc + BitVec.ofNat 32 p)
    let admitted := s.build.admits false s.unitSrc 4 && s.build.admits true s.unitLuma 2
      && s.build.admits true s.unitU 1 && s.build.admits true s.unitV 1
    (admitted = false → exec .groupEven s = .fault .notAdmitted)
    ∧ (admitted = true → ∃ t, exec .groupEven s = .next t
      ∧ t.byteAt s.unitV = b 3
      ∧ (s.unitU ≠ s.unitV → t.byteAt s.unitU = b 1)
      ∧ (s.unitLuma ≠ s.unitU → s.unitLuma ≠ s.unitV → t.byteAt s.unitLuma = b 0)
      ∧ (s.unitLuma + 1#32 ≠ s.unitU → s.unitLuma + 1#32 ≠ s.unitV → t.byteAt (s.unitLuma + 1#32) = b 2)
      ∧ (∀ a, a ≠ s.unitLuma → a ≠ s.unitLuma + 1#32 → a ≠ s.unitU → a ≠ s.unitV → t.byteAt a = s.byteAt a)
      ∧ t = { s with
          mem := t.mem, stage := [b 0, b 1, b 2, b 3], work := { s.work with col := s.work.col + 4#32 },
          memPort := [.read s.unitSrc 4 [b 0, b 1, b 2, b 3], .write s.unitLuma [b 0, b 2], .write s.unitU [b 1],
            .write s.unitV [b 3]] })

/-- BLOCK_EVEN (40_even_row_unpacker.md R133), in a run that is not refused: luma byte `i` is `b[2i]`, U byte `j` is
`b[4j+1]`, V byte `j` is `b[4j+3]`, written in the order luma, U, V. -/
def Obligations.BlockEvenCopiesBlock : Prop :=
  ∀ s : State, s.refused = none →
    let b (p : Nat) : Byte := s.byteAt (s.unitSrc + BitVec.ofNat 32 p)
    let lumaR : Region := ⟨s.unitLuma, 16⟩
    let uR : Region := ⟨s.unitU, 8⟩
    let vR : Region := ⟨s.unitV, 8⟩
    let admitted := s.build.admits false s.unitSrc 32 && s.build.admits true s.unitLuma 16
      && s.build.admits true s.unitU 8 && s.build.admits true s.unitV 8
    (admitted = false → exec .blockEven s = .fault .notAdmitted)
    ∧ (admitted = true → ∃ t, exec .blockEven s = .next t
      ∧ (∀ j, j < 8 → t.byteAt (s.unitV + BitVec.ofNat 32 j) = b (4 * j + 3))
      ∧ (∀ j, j < 8 → vR.contains (s.unitU + BitVec.ofNat 32 j) = false →
          t.byteAt (s.unitU + BitVec.ofNat 32 j) = b (4 * j + 1))
      ∧ (∀ i, i < 16 → uR.contains (s.unitLuma + BitVec.ofNat 32 i) = false →
          vR.contains (s.unitLuma + BitVec.ofNat 32 i) = false →
          t.byteAt (s.unitLuma + BitVec.ofNat 32 i) = b (2 * i))
      ∧ (∀ a, lumaR.contains a = false → uR.contains a = false → vR.contains a = false → t.byteAt a = s.byteAt a)
      ∧ t = { s with
          mem := t.mem, stage := (List.range 32).map b, work := { s.work with col := s.work.col + 32#32 },
          memPort := [.read s.unitSrc 32 ((List.range 32).map b), .write s.unitLuma ((List.range 16).map fun i => b (2 * i)),
            .write s.unitU ((List.range 8).map fun j => b (4 * j + 1)),
            .write s.unitV ((List.range 8).map fun j => b (4 * j + 3))] })

/-- GROUP_ODD (41_odd_row_unpacker.md R151), in a run that is not refused: `Y0` and `Y1` only. -/
def Obligations.GroupOddCopiesLuma : Prop :=
  ∀ s : State, s.refused = none →
    let b (p : Nat) : Byte := s.byteAt (s.unitSrc + BitVec.ofNat 32 p)
    let admitted := s.build.admits false s.unitSrc 4 && s.build.admits true s.unitLuma 2
    (admitted = false → exec .groupOdd s = .fault .notAdmitted)
    ∧ (admitted = true → ∃ t, exec .groupOdd s = .next t
      ∧ t.byteAt s.unitLuma = b 0 ∧ t.byteAt (s.unitLuma + 1#32) = b 2
      ∧ (∀ a, a ≠ s.unitLuma → a ≠ s.unitLuma + 1#32 → t.byteAt a = s.byteAt a)
      ∧ t = { s with
          mem := t.mem, stage := [b 0, b 1, b 2, b 3], work := { s.work with col := s.work.col + 4#32 },
          memPort := [.read s.unitSrc 4 [b 0, b 1, b 2, b 3], .write s.unitLuma [b 0, b 2]] })

/-- BLOCK_ODD (41_odd_row_unpacker.md R152), in a run that is not refused: the 16 even lanes only. -/
def Obligations.BlockOddCopiesLuma : Prop :=
  ∀ s : State, s.refused = none →
    let b (p : Nat) : Byte := s.byteAt (s.unitSrc + BitVec.ofNat 32 p)
    let admitted := s.build.admits false s.unitSrc 32 && s.build.admits true s.unitLuma 16
    (admitted = false → exec .blockOdd s = .fault .notAdmitted)
    ∧ (admitted = true → ∃ t, exec .blockOdd s = .next t
      ∧ (∀ i, i < 16 → t.byteAt (s.unitLuma + BitVec.ofNat 32 i) = b (2 * i))
      ∧ (∀ a, Region.contains ⟨s.unitLuma, 16⟩ a = false → t.byteAt a = s.byteAt a)
      ∧ t = { s with
          mem := t.mem, stage := (List.range 32).map b, work := { s.work with col := s.work.col + 32#32 },
          memPort := [.read s.unitSrc 32 ((List.range 32).map b),
            .write s.unitLuma ((List.range 16).map fun i => b (2 * i))] })

/-- Refused runs. A unit operation completes when its own transactions are admitted (an odd one has none on the U and V planes)
and is stuck when one is not (20_memory.md R80); a row end completes. After such a converter step all that the spec gives the
machine is free; the build, the mark and the model's records of the run stay. After every turn of a refused run, whatever it
was, all that the spec gives the machine is free too; the build and the mark stay. Memory keeps its canonical form in both. The model's choice (log 8), for 60_exceptions.md R236's "undefined" and 00_scope.md R15. -/
def Obligations.RefusedStepsAreFreeButComplete : Prop :=
  ∀ s : State, s.refused ≠ none →
    let completes (i : Instr) : Prop :=
      ∃ t, exec i s = .next t ∧ OnlyRecordsKept s t ∧ t.draws = s.draws + 1 ∧ ∃ u, t = refusedState u
    let odd (n : Nat) : Bool := s.build.admits false s.unitSrc n && s.build.admits true s.unitLuma (n / 2)
    let even (n : Nat) : Bool := odd n && s.build.admits true s.unitU (n / 4) && s.build.admits true s.unitV (n / 4)
    (even 4 = true → completes .groupEven) ∧ (even 4 = false → exec .groupEven s = .fault .notAdmitted)
    ∧ (even 32 = true → completes .blockEven) ∧ (even 32 = false → exec .blockEven s = .fault .notAdmitted)
    ∧ (odd 4 = true → completes .groupOdd) ∧ (odd 4 = false → exec .groupOdd s = .fault .notAdmitted)
    ∧ (odd 32 = true → completes .blockOdd) ∧ (odd 32 = false → exec .blockOdd s = .fault .notAdmitted)
    ∧ (∀ v : Bool, completes (.rowAdvanceEven v) ∧ completes (.rowAdvanceOdd v))
    ∧ ∀ t, step s = .next t → t.refused = s.refused ∧ t.build = s.build ∧ (s.mem.wf → t.mem.wf) ∧ ∃ u, t = refusedState u

/-- An even unit routes every source byte by the plane mux (40_even_row_unpacker.md R130): the byte at row offset
`col + p` goes unchanged to its plane at its offset, when the unit's output windows are disjoint. -/
def Obligations.EvenUnitFollowsPlaneMux : Prop :=
  ∀ (s : State) (n : Nat) (i : Instr), s.refused = none →
    (n = 4 ∧ i = .groupEven) ∨ (n = 32 ∧ i = .blockEven) →
    s.work.col.toNat % 4 = 0 → s.work.col.toNat + n ≤ 2 ^ 32 →
    s.build.admits false s.unitSrc n = true → s.build.admits true s.unitLuma (n / 2) = true →
    s.build.admits true s.unitU (n / 4) = true → s.build.admits true s.unitV (n / 4) = true →
    Region.disjoint ⟨s.unitLuma, n / 2⟩ ⟨s.unitU, n / 4⟩ = true →
    Region.disjoint ⟨s.unitLuma, n / 2⟩ ⟨s.unitV, n / 4⟩ = true →
    Region.disjoint ⟨s.unitU, n / 4⟩ ⟨s.unitV, n / 4⟩ = true →
    ∃ t, exec i s = .next t
      ∧ ∀ p, p < n → t.byteAt (s.planeAddr (s.work.col.toNat + p)) = s.byteAt (s.unitSrc + BitVec.ofNat 32 p)

/-- BLOCK_EVEN at `col` writes what GROUP_EVEN writes at `col, col + 4, ..., col + 28`, and leaves the same registers, when
the source block and the three output windows are disjoint (40_even_row_unpacker.md R135). -/
def Obligations.BlockEvenIsEightGroups : Prop :=
  ∀ s : State, s.refused = none → s.work.col.toNat % 4 = 0 → s.work.col.toNat + 32 ≤ 2 ^ 32 →
    s.build.admits false s.unitSrc 32 = true → s.build.admits true s.unitLuma 16 = true →
    s.build.admits true s.unitU 8 = true → s.build.admits true s.unitV 8 = true →
    Region.disjoint ⟨s.unitSrc, 32⟩ ⟨s.unitLuma, 16⟩ = true → Region.disjoint ⟨s.unitSrc, 32⟩ ⟨s.unitU, 8⟩ = true →
    Region.disjoint ⟨s.unitSrc, 32⟩ ⟨s.unitV, 8⟩ = true → Region.disjoint ⟨s.unitLuma, 16⟩ ⟨s.unitU, 8⟩ = true →
    Region.disjoint ⟨s.unitLuma, 16⟩ ⟨s.unitV, 8⟩ = true → Region.disjoint ⟨s.unitU, 8⟩ ⟨s.unitV, 8⟩ = true →
    ∃ t u, exec .blockEven s = .next t ∧ execRepeat .groupEven 8 s = .next u
      ∧ (∀ a, t.byteAt a = u.byteAt a) ∧ t.work = u.work ∧ t.status = u.status

/-- BLOCK_ODD at `col` writes what GROUP_ODD writes at `col, col + 4, ..., col + 28` (41_odd_row_unpacker.md R154). -/
def Obligations.BlockOddIsEightGroups : Prop :=
  ∀ s : State, s.refused = none → s.work.col.toNat % 4 = 0 → s.work.col.toNat + 32 ≤ 2 ^ 32 →
    s.build.admits false s.unitSrc 32 = true → s.build.admits true s.unitLuma 16 = true →
    Region.disjoint ⟨s.unitSrc, 32⟩ ⟨s.unitLuma, 16⟩ = true →
    ∃ t u, exec .blockOdd s = .next t ∧ execRepeat .groupOdd 8 s = .next u
      ∧ (∀ a, t.byteAt a = u.byteAt a) ∧ t.work = u.work ∧ t.status = u.status

/-- In a run that is not refused, the odd operations write the same luma as the even ones, and the only difference is that
they write no chroma: every byte outside the luma window, those of the U and V windows included, stays as it was
(41_odd_row_unpacker.md R153). -/
def Obligations.OddUnitIsEvenUnitWithoutChroma : Prop :=
  ∀ (s t u : State) (n : Nat) (even odd : Instr), s.refused = none →
    (n = 4 ∧ even = .groupEven ∧ odd = .groupOdd) ∨ (n = 32 ∧ even = .blockEven ∧ odd = .blockOdd) →
    exec even s = .next t → exec odd s = .next u →
    (∀ a, Region.contains ⟨s.unitU, n / 4⟩ a = false → Region.contains ⟨s.unitV, n / 4⟩ a = false → t.byteAt a = u.byteAt a)
    ∧ (∀ a, Region.contains ⟨s.unitLuma, n / 2⟩ a = false → u.byteAt a = s.byteAt a)
    ∧ t.work = u.work ∧ t.status = u.status ∧ t.stage = u.stage

/-- ROW_EVEN, the row contract (40_even_row_unpacker.md R132). In a run that is not refused, from any `col` of the row with
the rest of the row's source and output windows disjoint and admitted, the rest of the row is copied (from `col = 0` the whole
row), `col` ends at `s_l`, and no other byte and no other register changes. In every run a row is its units in turn: all of
them; or those before the first that is not admitted; or, when that is the first one left, stuck. That the row is one step
of the machine, and how it ends at a unit that is not admitted, is the model's choice (logs 13, 22). -/
def Obligations.RowEvenContract : Prop :=
  (∀ s : State, s.refused = none →
    let left := s.work.rowStride.toNat - s.work.col.toNat
    let src : Region := ⟨s.unitSrc, left⟩
    let luma : Region := ⟨s.unitLuma, left / 2⟩
    let u : Region := ⟨s.unitU, left / 4⟩
    let v : Region := ⟨s.unitV, left / 4⟩
    s.work.rowStride.toNat % s.build.strategy.unitBytes = 0 → s.work.col.toNat % s.build.strategy.unitBytes = 0 →
    s.work.col.toNat ≤ s.work.rowStride.toNat →
    src.disjoint luma = true → src.disjoint u = true → src.disjoint v = true → luma.disjoint u = true →
    luma.disjoint v = true → u.disjoint v = true →
    (∀ a, src.contains a = true → s.build.admitsByte false a = true) →
    (∀ a, luma.contains a = true ∨ u.contains a = true ∨ v.contains a = true → s.build.admitsByte true a = true) →
    ∃ t, exec .rowEven s = .next t
      ∧ (∀ i, i < left / 2 → t.byteAt (s.unitLuma + BitVec.ofNat 32 i) = s.byteAt (s.unitSrc + BitVec.ofNat 32 (2 * i)))
      ∧ (∀ j, j < left / 4 →
          t.byteAt (s.unitU + BitVec.ofNat 32 j) = s.byteAt (s.unitSrc + BitVec.ofNat 32 (4 * j + 1))
          ∧ t.byteAt (s.unitV + BitVec.ofNat 32 j) = s.byteAt (s.unitSrc + BitVec.ofNat 32 (4 * j + 3)))
      ∧ (∀ a, luma.contains a = false → u.contains a = false → v.contains a = false → t.byteAt a = s.byteAt a)
      ∧ rowDone t = true
      ∧ t = { s with mem := t.mem, stage := t.stage, work := { s.work with col := s.work.rowStride }, memPort := t.memPort })
  ∧ ∀ s : State, RowIsItsUnits .rowEven (evenUnit s.build.strategy) (evenUnitAdmitted s) s

/-- ROW_ODD, the row contract (41_odd_row_unpacker.md R150): as ROW_EVEN's, luma only. In a run that is not refused, from any
`col` the luma of the rest of the row is copied, `col` ends at `s_l`, and no other byte and no other register changes; in
every run a row is its units in turn, up to the first that is not admitted. That the row is one step of the machine, and how
it ends at a unit that is not admitted, is the model's choice (logs 13, 22). -/
def Obligations.RowOddContract : Prop :=
  (∀ s : State, s.refused = none →
    let left := s.work.rowStride.toNat - s.work.col.toNat
    let src : Region := ⟨s.unitSrc, left⟩
    let luma : Region := ⟨s.unitLuma, left / 2⟩
    s.work.rowStride.toNat % s.build.strategy.unitBytes = 0 → s.work.col.toNat % s.build.strategy.unitBytes = 0 →
    s.work.col.toNat ≤ s.work.rowStride.toNat → src.disjoint luma = true →
    (∀ a, src.contains a = true → s.build.admitsByte false a = true) →
    (∀ a, luma.contains a = true → s.build.admitsByte true a = true) →
    ∃ t, exec .rowOdd s = .next t
      ∧ (∀ i, i < left / 2 → t.byteAt (s.unitLuma + BitVec.ofNat 32 i) = s.byteAt (s.unitSrc + BitVec.ofNat 32 (2 * i)))
      ∧ (∀ a, luma.contains a = false → t.byteAt a = s.byteAt a)
      ∧ rowDone t = true
      ∧ t = { s with mem := t.mem, stage := t.stage, work := { s.work with col := s.work.rowStride }, memPort := t.memPort })
  ∧ ∀ s : State, RowIsItsUnits .rowOdd (oddUnit s.build.strategy) (oddUnitAdmitted s) s

/-! ### The frame iterator -/

/-- ROW_IDLE and ROW_RSV start no row, and STEP_IDLE is no step: nothing changes (30_encoding.md R106,
42_frame_iterator.md R179). A run that is not refused has ended exactly when no statement is left and BUSY = 0; the machine then
stays as it is and is observed (R189). A refused run has ended, and its observation shows the mark. That the statements still
to come are the schedule, that a refused run ends with the mark, and which registers are observed, is the model's choice (logs
7, 29, 30). -/
def Obligations.IdleCodesHaveNoEffect : Prop :=
  (∀ (s : State) (e p v : Bool),
    exec .rowIdle s = .next s ∧ exec .rowRsv s = .next s ∧ exec (.stepIdle e p v) s = .next s)
  ∧ ∀ s : State,
    (s.refused = none →
      (runEnded s = true ↔ s.schedule = [] ∧ s.status.busy = false)
      ∧ (runEnded s = true → step s = .next s ∧ observed s = some (observation s))
      ∧ (s.status.busy = true → observed s = none))
    ∧ (s.refused ≠ none → runEnded s = true ∧ ∃ o, observed s = some o ∧ o.refused = true)

/-- ROW_ADVANCE_EVEN (42_frame_iterator.md R176), in a run that is not refused: the four pointers advance, PHASE becomes 1,
`col` 0; no memory access and nothing else. -/
def Obligations.RowAdvanceEvenMovesPointers : Prop :=
  ∀ (vec : Bool) (s : State), s.refused = none →
    exec (.rowAdvanceEven vec) s = .next { s with
      work := { s.work with
        srcPtr := s.work.srcPtr + s.work.rowStride
        lumaPtr := s.work.lumaPtr + s.work.rowStride / 2#32
        uPtr := s.work.uPtr + s.work.rowStride / 4#32
        vPtr := s.work.vPtr + s.work.rowStride / 4#32
        col := 0#32 }
      status := { s.status with phase := true }
      memPort := [] }

/-- ROW_ADVANCE_ODD (42_frame_iterator.md R177, R178), in a run that is not refused: the source and luma pointers advance, U_PTR
and V_PTR stay, the pair is counted, PHASE and `col` become 0; when `PAIR_CNT + 1 = pairs_l`, and only then, BUSY becomes 0 and
DONE 1. With COHERENT = 0 the three output regions are then recorded as still to be invalidated by the host (20_memory.md R93
(c)): the model's choice (log 6). -/
def Obligations.RowAdvanceOddCountsPair : Prop :=
  ∀ (vec : Bool) (s : State), s.refused = none →
    let work := { s.work with
      srcPtr := s.work.srcPtr + s.work.rowStride
      lumaPtr := s.work.lumaPtr + s.work.rowStride / 2#32
      pairCnt := s.work.pairCnt + 1#32
      col := 0#32 }
    (s.work.pairCnt + 1#32 ≠ s.work.pairsL →
      exec (.rowAdvanceOdd vec) s = .next { s with work := work, status := { s.status with phase := false }, memPort := [] })
    ∧ (s.work.pairCnt + 1#32 = s.work.pairsL →
      exec (.rowAdvanceOdd vec) s = .next { s with
        work := work, status := { s.status with phase := false, busy := false, done := true }, memPort := [],
        doneUnread := outputsToInvalidate s ++ s.doneUnread })
    ∧ (s.build.coherent = true → outputsToInvalidate s = [])
    ∧ (∀ c, s.build.coherent = false → s.conv = some c → outputsToInvalidate s = [c.lumaRegion, c.uRegion, c.vRegion])

/-! ### The machine -/

/-- A step runs the decoded instruction: the register transaction at the head of the schedule; the converter's step, named by
its selector, when its turn comes or no turn is left; the row code that frame_iterator drives. A code that is not driven is no
run of the machine. The branch of a POLL ends it when the masked value just read matches, and else repeats its read
(30_encoding.md R110). Around the instruction a step adds two things only: in a run that is not refused, what the host learns
from a read of DONE = 1 (log 6), and in a refused run a free state (log 8). The schedule of turns, the row turns and the turns
between a POLL's reads are the model's choice (logs 7, 13, 21). -/
def Obligations.StepRunsDecodedInstruction : Prop :=
  ∀ (s : State) (rest : List Turn),
    (∀ (i : Instr) (w : BitVec 41), i.wellFormed = true → encode i = .reg w → s.schedule = .reg w :: rest →
      step s = finishInstr s i (exec i { s with schedule := rest }))
    ∧ (s.schedule = .converter :: rest →
      step s = finishInstr s (converterInstr s) (exec (decode (.step (stepSelector s))) { s with schedule := rest }))
    ∧ (s.schedule = [] → step s = finishInstr s (converterInstr s) (exec (decode (.step (stepSelector s))) s))
    ∧ (∀ op, s.schedule = .row op :: rest → op = rowOp s ∨ op = 0b11#2 →
      step s = finishInstr s (decode (.row op)) (exec (decode (.row op)) { s with schedule := rest }))
    ∧ (∀ op, s.schedule = .row op :: rest → op ≠ rowOp s → op ≠ 0b11#2 → step s = .refused (.rowOpNotDriven op))
    ∧ (∀ a, s.schedule = .host a :: rest → step s = .next (settle s (hostStep a { s with schedule := rest })))
    ∧ (∀ word mask value pace, s.schedule = .host (.pollAgain word mask value pace) :: rest → s.refused = none →
      (s.regRdata &&& mask = value → step s = .next { s with schedule := rest })
      ∧ (s.regRdata &&& mask ≠ value → step s = .next { s with
          schedule := List.replicate (pace.headD 1) Turn.converter
            ++ .reg word :: .host (.pollAgain word mask value pace.tail) :: rest }))
    ∧ (∀ (i : Instr) (o : Host.Outcome State Fault Refusal), s.refused = none → (∀ lo data, i ≠ .rdStatus lo data) →
      finishInstr s i o = o)
    ∧ (∀ lo data t, s.refused = none → finishInstr s (.rdStatus lo data) (.next t)
      = .next (if t.regRdata.getLsbD 1 then { t with doneUnread := [], stale := t.doneUnread ++ t.stale } else t))
    ∧ (∀ i t, s.refused ≠ none → finishInstr s i (.next t) = .next (refusedState (hostLearns i t)))
    ∧ (∀ t, (s.refused = none → settle s t = t) ∧ (s.refused ≠ none → settle s t = refusedState t))

/-- Every register transaction is served in every state: whatever word the host presents, its instruction and the step answer
a next state, with memory untouched and, while BUSY, the working registers and BUSY too (43_host_interface.md R200,
30_encoding.md R108). In a refused run the step then leaves the machine free: the model's choice (log 8). -/
def Obligations.TransactionsServedInEveryState : Prop :=
  ∀ (s : State) (w : BitVec 41) (rest : List Turn), s.schedule = .reg w :: rest →
    ∃ u t, exec (decode (.reg w)) { s with schedule := rest } = .next u ∧ step s = .next t ∧ t.schedule = rest
      ∧ u.mem = s.mem ∧ (s.status.busy = true → u.work = s.work ∧ u.status.busy = true)
      ∧ (s.refused = none → t.mem = s.mem ∧ (s.status.busy = true → t.work = s.work ∧ t.status.busy = true))

/-- The reset event puts every register at its reset value, `irq` low, leaves ID and CAPS the constants they are, CMD
reading 0, and memory and the refused mark as they were (10_state.md R59). That the build, the host's data, the word it last
read, its turns and its dirty lines stay is the model's choice (log 17), and so is that with COHERENT = 0 the outputs of an abandoned conversion become
stale (log 6). This is the event's own effect; a step of a refused run then leaves the machine free (log 8). -/
def Obligations.ResetEventResetsRegisters : Prop :=
  ∀ (s : State) (lo : BitVec 2) (data : Word),
    let t := hostStep .reset s
    t.status.word = 0#32 ∧ ctrlWord t = 0#32 ∧ irq t = false
    ∧ t.cfg = { srcBase := 0#32, lumaBase := 0#32, uBase := 0#32, vBase := 0#32, stride := 0#32, height := 0#32 }
    ∧ t.work = { srcPtr := 0#32, lumaPtr := 0#32, uPtr := 0#32, vPtr := 0#32, pairCnt := 0#32, rowStride := 0#32,
                 pairsL := 0#32, col := 0#32 }
    ∧ exec (.rdId lo data) t = .next { t with regRdata := 0x59550420#32 }
    ∧ exec (.rdCaps lo data) t = .next { t with regRdata := Config.capsValue s.build.strategy }
    ∧ exec (.rdCmd lo data) t = .next { t with regRdata := 0#32 }
    ∧ t.mem = s.mem ∧ t.refused = s.refused ∧ t.build = s.build ∧ t.schedule = s.schedule ∧ t.hostData = s.hostData
    ∧ t.regRdata = s.regRdata ∧ t.dirty = s.dirty ∧ t.doneUnread = s.doneUnread
    ∧ (s.status.busy = false ∨ s.build.coherent = true ∨ s.conv = none → t.stale = s.stale)
    ∧ (∀ c, s.status.busy = true → s.build.coherent = false → s.conv = some c →
        t.stale = [c.lumaRegion, c.uRegion, c.vRegion] ++ s.stale)

/-- The registers of the machine right after reset, for every build and launch (10_state.md R59). -/
def Obligations.ResetStateRegisters : Prop :=
  ∀ b : Build,
    let s := State.resetWith b
    s.status.word = 0#32 ∧ ctrlWord s = 0#32 ∧ irq s = false ∧ s.refused = none
    ∧ s.cfg = { srcBase := 0#32, lumaBase := 0#32, uBase := 0#32, vBase := 0#32, stride := 0#32, height := 0#32 }
    ∧ s.work = { srcPtr := 0#32, lumaPtr := 0#32, uPtr := 0#32, vPtr := 0#32, pairCnt := 0#32, rowStride := 0#32,
                 pairsL := 0#32, col := 0#32 }

/-- START straight after reset raises InvalidGeometry with both zero causes: STATUS = 0x00010304, on either strategy, and no
memory is touched (70_reset_and_hazards.md R263), both in a reset state and after a reset event. -/
def Obligations.StartAfterReset : Prop :=
  ∀ (b : Build) (s : State) (lo : BitVec 2), s = State.resetWith b ∨ (∃ r, s = hostStep .reset r) →
    ∃ t, exec (.start lo) s = .next t ∧ t.status.word = 0x00010304#32 ∧ t.status.geomCause = 0b00011#5
      ∧ t.mem = s.mem ∧ t.memPort = s.memPort ∧ t.work = s.work

/-- Every step keeps the invariants (a) to (g) of 10_state.md R58, in every run that is not refused, and at the START that
refuses it. In a refused run every register is free: the model's choice (log 8). -/
def Obligations.StatusInvariantKept : Prop :=
  ∀ s t : State, (s.refused = none → StatusInvariant s) → step s = .next t → Determinate s t → StatusInvariant t

/-- Every step keeps the pointer values of 42_frame_iterator.md R183 with the R58 invariants, in every run that is not refused,
and at the START that refuses it. In a refused run every register is free: the model's choice (log 8). The
latched values are those of the model's record (log 26). -/
def Obligations.PointerValuesKept : Prop :=
  ∀ s t : State, (s.refused = none → StatusInvariant s ∧ PointerInvariant s) → step s = .next t → Determinate s t →
    StatusInvariant t ∧ PointerInvariant t

/-- Every step keeps the progress of the frame, whatever the host does in between, in a run that is not refused: the source
is as at START, each processed byte is at its place in its plane, each other output byte is as at START (42_frame_iterator.md
R175, R185, R190; 70_reset_and_hazards.md R261). -/
def Obligations.FrameProgressKept : Prop :=
  ∀ s t : State, FrameReady s → step s = .next t → FrameInvariant t

/-- The frame law (42_frame_iterator.md R185): at the step that completes a frame, in a run that is not refused, every plane
byte is the source byte of the memory at START that the law gives, whatever the host did in between. -/
def Obligations.CompletedFrameIsConverted : Prop :=
  ∀ s t : State, FrameReady s → step s = .next t → s.status.busy = true → t.status.done = true → t.refused = none →
    ∃ c, t.conv = some c ∧ s.conv = some c ∧ t.status.busy = false ∧ FrameWritten c t ∧ finalRegisters c t

/-- Every step keeps memory in its canonical form: the model's own form of the memory space of 20_memory.md R70 (log 4). -/
def Obligations.MemoryFormKept : Prop :=
  ∀ s t : State, s.mem.wf → step s = .next t → t.mem.wf

/-- The invariants hold at reset, for every build and launch (10_state.md R58, R59); the canonical form of memory is the
model's own (log 4). -/
def Obligations.InvariantsHoldAtReset : Prop :=
  ∀ b : Build, FrameReady (State.resetWith b) ∧ (State.resetWith b).mem.wf

/-- The refused mark (10_state.md R57): `refuse` sets it, no step clears it, not even reset, and it is not set initially. -/
def Obligations.RefusedMarkIsNeverCleared : Prop :=
  (∀ (s t : State) (r : RefuseReason), step s = .next t → s.refused = some r → t.refused = some r)
  ∧ (∀ (s : State) (r : RefuseReason), (refuse r s).refused ≠ none)
  ∧ ∀ b : Build, (State.resetWith b).refused = none

/-- CMD_IGNORED is sticky (10_state.md R37): every ignored command sets it; an accepted CLEAR and reset clear it, and nothing
else does, an accepted START included, where the rules determine the step: in a refused run it is free (log 8). -/
def Obligations.CmdIgnoredIsSticky : Prop :=
  (∀ s t : State, step s = .next t → Determinate s t → s.status.cmdIgnored = true → t.status.cmdIgnored = false →
    ∃ s', (fetch s = (.action .reset, s')) ∨ (∃ lo, fetch s = (.instr (.clear lo), s') ∧ s.status.busy = false))
  ∧ (∀ (lo : BitVec 2) (data : Word) (s : State) (i : Instr),
    i = .ignoredOp lo ∨ i = .ignoredRsv lo data ∨ (s.status.busy = true ∧ (i = .start lo ∨ i = .clear lo)) →
    ∃ t, exec i s = .next t ∧ t.status.cmdIgnored = true)
  ∧ (∀ (lo : BitVec 2) (s : State), s.status.busy = false →
    ∃ t, exec (.clear lo) s = .next t ∧ t.status.cmdIgnored = false)
  ∧ ∀ s : State, (hostStep .reset s).status.cmdIgnored = false

/-- In a run that is not refused, the converter's turns access only the regions of the conversion in progress: reads in
SRC_REGION, writes in an output region (20_memory.md R79). In a refused run the addresses are free (log 8); a row turn is not
covered, because the port's record holds only its last unit (log 11). -/
def Obligations.ConverterAccessesOnlyItsRegions : Prop :=
  ∀ (s t : State) (c : Conversion), s.refused = none → StatusInvariant s → PointerInvariant s →
    s.status.busy = true → s.conv = some c → exec (converterInstr s) s = .next t → portInside c t.memPort

/-- Every transaction of an unpacker moves 1 to 32 bytes (10_state.md R22, 20_memory.md R74): `mem_len` 0 and 33 to 63 are
never driven by a unit operation. -/
def Obligations.TransactionLengthsBounded : Prop :=
  ∀ (s t : State) (i : Instr), i = .groupEven ∨ i = .blockEven ∨ i = .groupOdd ∨ i = .blockOdd → exec i s = .next t →
    ∀ x ∈ t.memPort,
      match x with
      | .read _ n data => 1 ≤ n ∧ n ≤ 32 ∧ data.length = n
      | .write _ data => 1 ≤ data.length ∧ data.length ≤ 32

/-- In a run that is not refused, every converter step of a conversion in progress moves its position forward or completes
the frame (42_frame_iterator.md R180). In a refused run the position is free: the model's choice (log 8). -/
def Obligations.PositionAlwaysAdvances : Prop :=
  ∀ s t : State, s.refused = none → StatusInvariant s → s.status.busy = true → exec (converterInstr s) s = .next t →
    positionBefore s t ∨ (t.status.busy = false ∧ t.status.done = true ∧ t.work.pairCnt = t.work.pairsL)

/-- The step count (42_frame_iterator.md R188): from the frame start, with every transaction of the frame admitted and the
premises held, the converter is busy for `h × (s/G + 1)` steps and no longer, and the frame is then converted. No host turn is
left in the model's schedule (log 7), and with COHERENT = 0 the duties (a) and (b) of 20_memory.md R93 are shown (log 6). The
run has then ended and is observed (R189, log 30). -/
def Obligations.FrameCompletesInStatedSteps : Prop :=
  ∀ (s f : State) (lo : BitVec 2), ReadyToConvert s → exec (.start lo) s = .next f →
    let n := frameSteps s.build.strategy s.cfg.stride s.cfg.height
    (∀ k, k < n → ∃ t, Host.Core.run Sys2Proof.core k f = .next t ∧ t.status.busy = true)
    ∧ ∃ t, Host.Core.run Sys2Proof.core n f = .next t ∧ t.status.busy = false ∧ t.status.done = true
      ∧ observed t = some (observation t) ∧ FrameWritten (latched s) t ∧ finalRegisters (latched s) t

/-- Strategy equivalence (42_frame_iterator.md R187): for a geometry that both strategies accept, in a frame whose premises
hold and whose transactions are admitted, a PORTABLE and a VECTOR build end with the same memory, the same working registers
and the same STATUS. No host turn is left in the model's schedule (log 7), and with COHERENT = 0 the duties (a) and (b) of
20_memory.md R93 are shown (log 6). -/
def Obligations.StrategiesAgree : Prop :=
  ∀ (s p v : State) (lo : BitVec 2),
    let onBuild (st : Strategy) : State := { s with build := { s.build with strategy := st } }
    ReadyToConvert (onBuild .portable) → ReadyToConvert (onBuild .vector) →
    exec (.start lo) (onBuild .portable) = .next p → exec (.start lo) (onBuild .vector) = .next v →
    ∃ tp tv, Host.Core.run Sys2Proof.core (frameSteps .portable s.cfg.stride s.cfg.height) p = .next tp
      ∧ Host.Core.run Sys2Proof.core (frameSteps .vector s.cfg.stride s.cfg.height) v = .next tv
      ∧ (∀ a : Addr, tp.byteAt a = tv.byteAt a) ∧ tp.work = tv.work ∧ tp.status = tv.status

/-! ### The host's memory accesses -/

/-- What a host read of `n` bytes returns, byte by byte, in a run that is not refused and when it meets no output region that
is still to be invalidated (never so with COHERENT = 1; log 6). While BUSY, a byte of an output region of the conversion gives
its value at START or the value the conversion writes to it (20_memory.md R88). Every other byte, and every byte while idle,
so after DONE (R85, R89), gives memory's. Nothing but the host's data and the draw number changes: no mark is set. -/
def Obligations.HostReadReturnsMemoryOrRaces : Prop :=
  ∀ (s : State) (a : Addr) (n : Nat), s.refused = none →
    s.build.coherent = true ∨ (∀ r, r ∈ s.doneUnread ∨ r ∈ s.stale → r.disjoint ⟨a, n⟩ = true) →
    let t := hostStep (.memRead a n) s
    t.hostData.length = n
    ∧ (∀ k, k < n →
        let x := a + BitVec.ofNat 32 k
        (∀ c, s.status.busy = true → s.conv = some c → c.isOutput x = true →
          t.hostData[k]? = some (Memory.read c.startMem x.toNat) ∨ t.hostData[k]? = some (c.outputByte x))
        ∧ (s.status.busy = false ∨ s.conv = none ∨ (∃ c, s.conv = some c ∧ c.isOutput x = false) →
          t.hostData[k]? = some (s.byteAt x)))
    ∧ t = { s with hostData := t.hostData, draws := s.draws + 1 }

/-- The value of 20_memory.md R88 that a conversion writes to an output byte is the one the frame law gives it
(42_frame_iterator.md R185), when the premises hold. -/
def Obligations.OutputByteIsFrameLaw : Prop :=
  ∀ c : Conversion, c.premisesHold = true →
    (∀ r i, r < c.height.toNat → i < c.stride.toNat / 2 →
      c.outputByte (c.lumaBase + BitVec.ofNat 32 (r * (c.stride.toNat / 2) + i)) = c.sourceByte (r * c.stride.toNat + 2 * i))
    ∧ (∀ k j, k < c.height.toNat / 2 → j < c.stride.toNat / 4 →
      c.outputByte (c.uBase + BitVec.ofNat 32 (k * (c.stride.toNat / 4) + j))
        = c.sourceByte (2 * k * c.stride.toNat + 4 * j + 1)
      ∧ c.outputByte (c.vBase + BitVec.ofNat 32 (k * (c.stride.toNat / 4) + j))
        = c.sourceByte (2 * k * c.stride.toNat + 4 * j + 3))

/-- A host write of any bytes, in any state. If none goes into a region of the running conversion, nothing is marked, each byte
is written, and no other byte and no register changes. If one does, the run is refused (60_exceptions.md R237) and the machine is
free from then on, the model's choice (log 8). With COHERENT = 0 the bytes are recorded as a dirty line (log 6). -/
def Obligations.HostWriteIntoRunIsRefused : Prop :=
  ∀ (s : State) (a : Addr) (bytes : List Byte),
    let t := hostStep (.memWrite a bytes) s
    let dirty := if s.build.coherent then s.dirty else ⟨a, bytes.length⟩ :: s.dirty
    ((∀ k, k < bytes.length → ¬ HitsRunning s (a + BitVec.ofNat 32 k)) →
      (bytes.length ≤ 2 ^ 32 → ∀ k b, bytes[k]? = some b → t.byteAt (a + BitVec.ofNat 32 k) = b)
      ∧ (∀ x, (∀ k, k < bytes.length → x ≠ a + BitVec.ofNat 32 k) → t.byteAt x = s.byteAt x)
      ∧ t = { s with mem := t.mem, dirty := dirty })
    ∧ ((∃ k, k < bytes.length ∧ HitsRunning s (a + BitVec.ofNat 32 k)) →
      t.refused ≠ none ∧ (s.refused = none → t.refused = some .hostWriteDuringBusy)
      ∧ OnlyRecordsKept { s with dirty := dirty, refused := t.refused } t ∧ ∃ u, t = refusedState u)

/-- The host's cache duties of 20_memory.md R93 with COHERENT = 0 (60_exceptions.md R237). (a), (b): a START while a dirty line
meets any region of its conversion refuses the run, and the hardware starts the frame all the same. (c): a host read, idle or
busy, that meets an output region still to be invalidated refuses the run, and the machine is free from then on. A clean takes
its bytes, and no others, from the dirty lines; an invalidation, idle or busy, takes its bytes, and no others, from the stale
regions, which are those of which the host has read DONE = 1; nothing else changes. How lines and regions are recorded, and
that the machine is then free, is the model's choice (logs 6, 8, 28), and so is the reason `cacheDutyNotShown`, which the spec
does not name (log 31). -/
def Obligations.UnshownCacheDutyRefusesRun : Prop :=
  let holds (l : List Region) (x : Addr) : Prop := ∃ r ∈ l, r.contains x = true
  (∀ (s : State) (lo : BitVec 2) (d : Region), s.status.busy = false → s.build.coherent = false →
    geomCause s.build.strategy s.cfg.stride s.cfg.height = 0#5 → d ∈ s.dirty →
    (d.disjoint (latched s).srcRegion = false ∨ d.disjoint (latched s).lumaRegion = false
      ∨ d.disjoint (latched s).uRegion = false ∨ d.disjoint (latched s).vRegion = false) →
    ∃ t, exec (.start lo) s = .next t ∧ t.refused ≠ none ∧ t.status.busy = true)
  ∧ (∀ (s : State) (a : Addr) (n : Nat) (r : Region), s.build.coherent = false → r ∈ s.doneUnread ∨ r ∈ s.stale →
    r.disjoint ⟨a, n⟩ = false →
    let t := hostStep (.memRead a n) s
    t.refused ≠ none ∧ (s.refused = none → t.refused = some .cacheDutyNotShown) ∧ t.hostData.length = n
    ∧ t.dirty = s.dirty ∧ t.doneUnread = s.doneUnread ∧ t.stale = s.stale ∧ ∃ u, t = refusedState u)
  ∧ (∀ (s : State) (a : Addr) (n : Nat),
    let t := hostStep (.cacheClean a n) s
    (∀ x, holds t.dirty x ↔ holds s.dirty x ∧ Region.contains ⟨a, n⟩ x = false) ∧ t = { s with dirty := t.dirty })
  ∧ (∀ (s : State) (a : Addr) (n : Nat),
    let t := hostStep (.cacheInvalidate a n) s
    (∀ x, holds t.stale x ↔ holds s.stale x ∧ Region.contains ⟨a, n⟩ x = false) ∧ t = { s with stale := t.stale })
  ∧ (∀ (s : State) (c : Conversion), s.build.coherent = false → s.conv = some c →
    outputsToInvalidate s = [c.lumaRegion, c.uRegion, c.vRegion])
  ∧ ∀ (s : State) (lo : BitVec 2) (data : Word) (x : Addr), s.status.done = true →
    ∃ t, exec (.rdStatus lo data) s = .next t
      ∧ (holds (hostLearns (.rdStatus lo data) t).stale x ↔ holds s.doneUnread x ∨ holds s.stale x)
      ∧ (hostLearns (.rdStatus lo data) t).doneUnread = []
end

