-- ==== Sys2Proof/Laws/Encoding.lean ====
section
/-! SUPPORT. The bits of F-REG words, and the fields read back from a word built of fields. -/

namespace Sys2Proof

/-- Bit `i` of an F-REG word: DATA, then OFFSET, then W (30_encoding.md R103). -/
theorem fRegWord_getLsbD (w : BitVec 1) (off : BitVec 8) (data : Word) (i : Nat) :
    (fRegWord w off data).getLsbD i =
      if i < 32 then data.getLsbD i else if i < 40 then off.getLsbD (i - 32) else w.getLsbD (i - 40) := by
  have h1 : (fRegWord w off data).getLsbD i = if i < 32 then data.getLsbD i else (w ++ off).getLsbD (i - 32) :=
    BitVec.getLsbD_append (x := w ++ off) (y := data) (i := i)
  have h2 : (w ++ off).getLsbD (i - 32) = if i - 32 < 8 then off.getLsbD (i - 32) else w.getLsbD (i - 32 - 8) :=
    BitVec.getLsbD_append (x := w) (y := off) (i := i - 32)
  rw [h1, h2]
  split
  · rfl
  · rw [show i - 32 - 8 = i - 40 by omega]
    by_cases h : i < 40
    · rw [if_pos h, if_pos (by omega)]
    · rw [if_neg h, if_neg (by omega)]

/-- Bit `i` of an OFFSET: the low bits, then the word index. -/
theorem regOffset_getLsbD (idx : BitVec 6) (lo : BitVec 2) (i : Nat) :
    (regOffset idx lo).getLsbD i = if i < 2 then lo.getLsbD i else idx.getLsbD (i - 2) :=
  BitVec.getLsbD_append (x := idx) (y := lo) (i := i)

theorem rsvOffset_getLsbD (high : BitVec 2) (low : BitVec 6) (i : Nat) :
    (high ++ low : BitVec 8).getLsbD i = if i < 6 then low.getLsbD i else high.getLsbD (i - 6) :=
  BitVec.getLsbD_append (x := high) (y := low) (i := i)

/-- The fields of a word built of fields are those fields. -/
@[simp] theorem fRegData_fRegWord (w : BitVec 1) (off : BitVec 8) (data : Word) : fRegData (fRegWord w off data) = data := by
  refine BitVec.eq_of_getLsbD_eq fun i hi => ?_
  rw [fRegData, BitVec.getLsbD_extractLsb', fRegWord_getLsbD]
  simp [hi]

@[simp] theorem fRegWrite_fRegWord (w : BitVec 1) (off : BitVec 8) (data : Word) :
    fRegWrite (fRegWord w off data) = w.getLsbD 0 := by
  rw [fRegWrite, fRegWord_getLsbD]
  simp

@[simp] theorem fRegIndex_fRegWord (w : BitVec 1) (idx : BitVec 6) (lo : BitVec 2) (data : Word) :
    fRegIndex (fRegWord w (regOffset idx lo) data) = idx := by
  refine BitVec.eq_of_getLsbD_eq fun i hi => ?_
  rw [fRegIndex, BitVec.getLsbD_extractLsb', fRegWord_getLsbD, regOffset_getLsbD]
  rw [if_neg (by omega), if_pos (by omega), if_neg (by omega), show 34 + i - 32 - 2 = i by omega]
  simp [hi]

@[simp] theorem fRegLow_fRegWord (w : BitVec 1) (idx : BitVec 6) (lo : BitVec 2) (data : Word) :
    fRegLow (fRegWord w (regOffset idx lo) data) = lo := by
  refine BitVec.eq_of_getLsbD_eq fun i hi => ?_
  rw [fRegLow, BitVec.getLsbD_extractLsb', fRegWord_getLsbD, regOffset_getLsbD]
  rw [if_neg (by omega), if_pos (by omega), if_pos (by omega), show 32 + i - 32 = i by omega]
  simp [hi]

/-- Every OFFSET is a word index and two low bits. -/
theorem offset_eq_regOffset (off : BitVec 8) : off = regOffset (off.extractLsb' 2 6) (off.extractLsb' 0 2) := by
  refine BitVec.eq_of_getLsbD_eq fun i hi => ?_
  rw [regOffset_getLsbD, BitVec.getLsbD_extractLsb', BitVec.getLsbD_extractLsb']
  split
  · next h => simp [h]
  · next h => rw [show 2 + (i - 2) = i by omega]; simp [show i - 2 < 6 by omega]

/-- The decode of an F-REG write or read built of fields is the decode table's (R104). -/
theorem decode_fRegWrite (idx : BitVec 6) (lo : BitVec 2) (data : Word) :
    decode (.reg (fRegWord 1#1 (regOffset idx lo) data)) = decodeWrite idx lo data := by
  simp [decode, decodeReg]

theorem decode_fRegRead (idx : BitVec 6) (lo : BitVec 2) (data : Word) :
    decode (.reg (fRegWord 0#1 (regOffset idx lo) data)) = decodeRead idx lo data := by
  simp [decode, decodeReg]

end Sys2Proof
end

