-- ==== Sys2Proof/Laws/State.lean ====
section
/-! SUPPORT. One lemma for each field of each named update of State, so that no later proof unfolds an update. -/

namespace Sys2Proof.Machine

/-! ### refuse -/

@[simp] theorem refuse_build (r : RefuseReason) (s : State) : (refuse r s).build = s.build := rfl
@[simp] theorem refuse_mem (r : RefuseReason) (s : State) : (refuse r s).mem = s.mem := rfl
@[simp] theorem refuse_irqEn (r : RefuseReason) (s : State) : (refuse r s).irqEn = s.irqEn := rfl
@[simp] theorem refuse_status (r : RefuseReason) (s : State) : (refuse r s).status = s.status := rfl
@[simp] theorem refuse_cfg (r : RefuseReason) (s : State) : (refuse r s).cfg = s.cfg := rfl
@[simp] theorem refuse_work (r : RefuseReason) (s : State) : (refuse r s).work = s.work := rfl
@[simp] theorem refuse_stage (r : RefuseReason) (s : State) : (refuse r s).stage = s.stage := rfl
@[simp] theorem refuse_refused (r : RefuseReason) (s : State) : (refuse r s).refused = some (s.refused.getD r) := rfl
@[simp] theorem refuse_regRdata (r : RefuseReason) (s : State) : (refuse r s).regRdata = s.regRdata := rfl
@[simp] theorem refuse_memPort (r : RefuseReason) (s : State) : (refuse r s).memPort = s.memPort := rfl
@[simp] theorem refuse_conv (r : RefuseReason) (s : State) : (refuse r s).conv = s.conv := rfl
@[simp] theorem refuse_draws (r : RefuseReason) (s : State) : (refuse r s).draws = s.draws := rfl
@[simp] theorem refuse_hostData (r : RefuseReason) (s : State) : (refuse r s).hostData = s.hostData := rfl
@[simp] theorem refuse_dirty (r : RefuseReason) (s : State) : (refuse r s).dirty = s.dirty := rfl
@[simp] theorem refuse_doneUnread (r : RefuseReason) (s : State) : (refuse r s).doneUnread = s.doneUnread := rfl
@[simp] theorem refuse_stale (r : RefuseReason) (s : State) : (refuse r s).stale = s.stale := rfl
@[simp] theorem refuse_schedule (r : RefuseReason) (s : State) : (refuse r s).schedule = s.schedule := rfl

/-! ### raiseInvalidGeometry -/

@[simp] theorem raiseInvalidGeometry_build (c : BitVec 5) (s : State) :
    (raiseInvalidGeometry c s).build = s.build := rfl
@[simp] theorem raiseInvalidGeometry_mem (c : BitVec 5) (s : State) : (raiseInvalidGeometry c s).mem = s.mem := rfl
@[simp] theorem raiseInvalidGeometry_irqEn (c : BitVec 5) (s : State) :
    (raiseInvalidGeometry c s).irqEn = s.irqEn := rfl
@[simp] theorem raiseInvalidGeometry_status (c : BitVec 5) (s : State) :
    (raiseInvalidGeometry c s).status = { s.status with err := true, errCode := 0x1#4, geomCause := c } := rfl
@[simp] theorem raiseInvalidGeometry_cfg (c : BitVec 5) (s : State) : (raiseInvalidGeometry c s).cfg = s.cfg := rfl
@[simp] theorem raiseInvalidGeometry_work (c : BitVec 5) (s : State) : (raiseInvalidGeometry c s).work = s.work := rfl
@[simp] theorem raiseInvalidGeometry_stage (c : BitVec 5) (s : State) :
    (raiseInvalidGeometry c s).stage = s.stage := rfl
@[simp] theorem raiseInvalidGeometry_refused (c : BitVec 5) (s : State) :
    (raiseInvalidGeometry c s).refused = s.refused := rfl
@[simp] theorem raiseInvalidGeometry_regRdata (c : BitVec 5) (s : State) :
    (raiseInvalidGeometry c s).regRdata = s.regRdata := rfl
@[simp] theorem raiseInvalidGeometry_memPort (c : BitVec 5) (s : State) :
    (raiseInvalidGeometry c s).memPort = s.memPort := rfl
@[simp] theorem raiseInvalidGeometry_conv (c : BitVec 5) (s : State) : (raiseInvalidGeometry c s).conv = s.conv := rfl
@[simp] theorem raiseInvalidGeometry_draws (c : BitVec 5) (s : State) :
    (raiseInvalidGeometry c s).draws = s.draws := rfl
@[simp] theorem raiseInvalidGeometry_hostData (c : BitVec 5) (s : State) :
    (raiseInvalidGeometry c s).hostData = s.hostData := rfl
@[simp] theorem raiseInvalidGeometry_dirty (c : BitVec 5) (s : State) :
    (raiseInvalidGeometry c s).dirty = s.dirty := rfl
@[simp] theorem raiseInvalidGeometry_doneUnread (c : BitVec 5) (s : State) :
    (raiseInvalidGeometry c s).doneUnread = s.doneUnread := rfl
@[simp] theorem raiseInvalidGeometry_stale (c : BitVec 5) (s : State) :
    (raiseInvalidGeometry c s).stale = s.stale := rfl
@[simp] theorem raiseInvalidGeometry_schedule (c : BitVec 5) (s : State) :
    (raiseInvalidGeometry c s).schedule = s.schedule := rfl

/-! ### clearOutcome -/

@[simp] theorem clearOutcome_build (s : State) : (clearOutcome s).build = s.build := rfl
@[simp] theorem clearOutcome_mem (s : State) : (clearOutcome s).mem = s.mem := rfl
@[simp] theorem clearOutcome_irqEn (s : State) : (clearOutcome s).irqEn = s.irqEn := rfl
@[simp] theorem clearOutcome_status (s : State) :
    (clearOutcome s).status = { s.status with done := false, err := false, errCode := 0#4, geomCause := 0#5 } := rfl
@[simp] theorem clearOutcome_cfg (s : State) : (clearOutcome s).cfg = s.cfg := rfl
@[simp] theorem clearOutcome_work (s : State) : (clearOutcome s).work = s.work := rfl
@[simp] theorem clearOutcome_stage (s : State) : (clearOutcome s).stage = s.stage := rfl
@[simp] theorem clearOutcome_refused (s : State) : (clearOutcome s).refused = s.refused := rfl
@[simp] theorem clearOutcome_regRdata (s : State) : (clearOutcome s).regRdata = s.regRdata := rfl
@[simp] theorem clearOutcome_memPort (s : State) : (clearOutcome s).memPort = s.memPort := rfl
@[simp] theorem clearOutcome_conv (s : State) : (clearOutcome s).conv = s.conv := rfl
@[simp] theorem clearOutcome_draws (s : State) : (clearOutcome s).draws = s.draws := rfl
@[simp] theorem clearOutcome_hostData (s : State) : (clearOutcome s).hostData = s.hostData := rfl
@[simp] theorem clearOutcome_dirty (s : State) : (clearOutcome s).dirty = s.dirty := rfl
@[simp] theorem clearOutcome_doneUnread (s : State) : (clearOutcome s).doneUnread = s.doneUnread := rfl
@[simp] theorem clearOutcome_stale (s : State) : (clearOutcome s).stale = s.stale := rfl
@[simp] theorem clearOutcome_schedule (s : State) : (clearOutcome s).schedule = s.schedule := rfl

/-! ### acceptClear -/

@[simp] theorem acceptClear_build (s : State) : (acceptClear s).build = s.build := rfl
@[simp] theorem acceptClear_mem (s : State) : (acceptClear s).mem = s.mem := rfl
@[simp] theorem acceptClear_irqEn (s : State) : (acceptClear s).irqEn = s.irqEn := rfl
@[simp] theorem acceptClear_status (s : State) :
    (acceptClear s).status = { s.status with done := false, err := false, errCode := 0#4, geomCause := 0#5, cmdIgnored := false } := rfl
@[simp] theorem acceptClear_cfg (s : State) : (acceptClear s).cfg = s.cfg := rfl
@[simp] theorem acceptClear_work (s : State) : (acceptClear s).work = s.work := rfl
@[simp] theorem acceptClear_stage (s : State) : (acceptClear s).stage = s.stage := rfl
@[simp] theorem acceptClear_refused (s : State) : (acceptClear s).refused = s.refused := rfl
@[simp] theorem acceptClear_regRdata (s : State) : (acceptClear s).regRdata = s.regRdata := rfl
@[simp] theorem acceptClear_memPort (s : State) : (acceptClear s).memPort = s.memPort := rfl
@[simp] theorem acceptClear_conv (s : State) : (acceptClear s).conv = s.conv := rfl
@[simp] theorem acceptClear_draws (s : State) : (acceptClear s).draws = s.draws := rfl
@[simp] theorem acceptClear_hostData (s : State) : (acceptClear s).hostData = s.hostData := rfl
@[simp] theorem acceptClear_dirty (s : State) : (acceptClear s).dirty = s.dirty := rfl
@[simp] theorem acceptClear_doneUnread (s : State) : (acceptClear s).doneUnread = s.doneUnread := rfl
@[simp] theorem acceptClear_stale (s : State) : (acceptClear s).stale = s.stale := rfl
@[simp] theorem acceptClear_schedule (s : State) : (acceptClear s).schedule = s.schedule := rfl

/-! ### respond -/

@[simp] theorem respond_build (v : Word) (s : State) : (respond v s).build = s.build := rfl
@[simp] theorem respond_mem (v : Word) (s : State) : (respond v s).mem = s.mem := rfl
@[simp] theorem respond_irqEn (v : Word) (s : State) : (respond v s).irqEn = s.irqEn := rfl
@[simp] theorem respond_status (v : Word) (s : State) : (respond v s).status = s.status := rfl
@[simp] theorem respond_cfg (v : Word) (s : State) : (respond v s).cfg = s.cfg := rfl
@[simp] theorem respond_work (v : Word) (s : State) : (respond v s).work = s.work := rfl
@[simp] theorem respond_stage (v : Word) (s : State) : (respond v s).stage = s.stage := rfl
@[simp] theorem respond_refused (v : Word) (s : State) : (respond v s).refused = s.refused := rfl
@[simp] theorem respond_regRdata (v : Word) (s : State) : (respond v s).regRdata = v := rfl
@[simp] theorem respond_memPort (v : Word) (s : State) : (respond v s).memPort = s.memPort := rfl
@[simp] theorem respond_conv (v : Word) (s : State) : (respond v s).conv = s.conv := rfl
@[simp] theorem respond_draws (v : Word) (s : State) : (respond v s).draws = s.draws := rfl
@[simp] theorem respond_hostData (v : Word) (s : State) : (respond v s).hostData = s.hostData := rfl
@[simp] theorem respond_dirty (v : Word) (s : State) : (respond v s).dirty = s.dirty := rfl
@[simp] theorem respond_doneUnread (v : Word) (s : State) : (respond v s).doneUnread = s.doneUnread := rfl
@[simp] theorem respond_stale (v : Word) (s : State) : (respond v s).stale = s.stale := rfl
@[simp] theorem respond_schedule (v : Word) (s : State) : (respond v s).schedule = s.schedule := rfl

/-! ### ignoreCommand -/

@[simp] theorem ignoreCommand_build (s : State) : (ignoreCommand s).build = s.build := rfl
@[simp] theorem ignoreCommand_mem (s : State) : (ignoreCommand s).mem = s.mem := rfl
@[simp] theorem ignoreCommand_irqEn (s : State) : (ignoreCommand s).irqEn = s.irqEn := rfl
@[simp] theorem ignoreCommand_status (s : State) :
    (ignoreCommand s).status = { s.status with cmdIgnored := true } := rfl
@[simp] theorem ignoreCommand_cfg (s : State) : (ignoreCommand s).cfg = s.cfg := rfl
@[simp] theorem ignoreCommand_work (s : State) : (ignoreCommand s).work = s.work := rfl
@[simp] theorem ignoreCommand_stage (s : State) : (ignoreCommand s).stage = s.stage := rfl
@[simp] theorem ignoreCommand_refused (s : State) : (ignoreCommand s).refused = s.refused := rfl
@[simp] theorem ignoreCommand_regRdata (s : State) : (ignoreCommand s).regRdata = s.regRdata := rfl
@[simp] theorem ignoreCommand_memPort (s : State) : (ignoreCommand s).memPort = s.memPort := rfl
@[simp] theorem ignoreCommand_conv (s : State) : (ignoreCommand s).conv = s.conv := rfl
@[simp] theorem ignoreCommand_draws (s : State) : (ignoreCommand s).draws = s.draws := rfl
@[simp] theorem ignoreCommand_hostData (s : State) : (ignoreCommand s).hostData = s.hostData := rfl
@[simp] theorem ignoreCommand_dirty (s : State) : (ignoreCommand s).dirty = s.dirty := rfl
@[simp] theorem ignoreCommand_doneUnread (s : State) : (ignoreCommand s).doneUnread = s.doneUnread := rfl
@[simp] theorem ignoreCommand_stale (s : State) : (ignoreCommand s).stale = s.stale := rfl
@[simp] theorem ignoreCommand_schedule (s : State) : (ignoreCommand s).schedule = s.schedule := rfl

/-! ### writeConfig -/

@[simp] theorem writeConfig_build (f : ConfigRegs) (s : State) : (writeConfig f s).build = s.build := rfl
@[simp] theorem writeConfig_mem (f : ConfigRegs) (s : State) : (writeConfig f s).mem = s.mem := rfl
@[simp] theorem writeConfig_irqEn (f : ConfigRegs) (s : State) : (writeConfig f s).irqEn = s.irqEn := rfl
@[simp] theorem writeConfig_status (f : ConfigRegs) (s : State) : (writeConfig f s).status = s.status := rfl
@[simp] theorem writeConfig_cfg (f : ConfigRegs) (s : State) : (writeConfig f s).cfg = f := rfl
@[simp] theorem writeConfig_work (f : ConfigRegs) (s : State) : (writeConfig f s).work = s.work := rfl
@[simp] theorem writeConfig_stage (f : ConfigRegs) (s : State) : (writeConfig f s).stage = s.stage := rfl
@[simp] theorem writeConfig_refused (f : ConfigRegs) (s : State) : (writeConfig f s).refused = s.refused := rfl
@[simp] theorem writeConfig_regRdata (f : ConfigRegs) (s : State) : (writeConfig f s).regRdata = s.regRdata := rfl
@[simp] theorem writeConfig_memPort (f : ConfigRegs) (s : State) : (writeConfig f s).memPort = s.memPort := rfl
@[simp] theorem writeConfig_conv (f : ConfigRegs) (s : State) : (writeConfig f s).conv = s.conv := rfl
@[simp] theorem writeConfig_draws (f : ConfigRegs) (s : State) : (writeConfig f s).draws = s.draws := rfl
@[simp] theorem writeConfig_hostData (f : ConfigRegs) (s : State) : (writeConfig f s).hostData = s.hostData := rfl
@[simp] theorem writeConfig_dirty (f : ConfigRegs) (s : State) : (writeConfig f s).dirty = s.dirty := rfl
@[simp] theorem writeConfig_doneUnread (f : ConfigRegs) (s : State) : (writeConfig f s).doneUnread = s.doneUnread := rfl
@[simp] theorem writeConfig_stale (f : ConfigRegs) (s : State) : (writeConfig f s).stale = s.stale := rfl
@[simp] theorem writeConfig_schedule (f : ConfigRegs) (s : State) : (writeConfig f s).schedule = s.schedule := rfl

/-! ### latchFrame -/

@[simp] theorem latchFrame_build (s : State) : (latchFrame s).build = s.build := rfl
@[simp] theorem latchFrame_mem (s : State) : (latchFrame s).mem = s.mem := rfl
@[simp] theorem latchFrame_irqEn (s : State) : (latchFrame s).irqEn = s.irqEn := rfl
@[simp] theorem latchFrame_status (s : State) :
    (latchFrame s).status = { s.status with phase := false, busy := true } := rfl
@[simp] theorem latchFrame_cfg (s : State) : (latchFrame s).cfg = s.cfg := rfl
@[simp] theorem latchFrame_work (s : State) :
    (latchFrame s).work =
      { srcPtr := s.cfg.srcBase, lumaPtr := s.cfg.lumaBase, uPtr := s.cfg.uBase, vPtr := s.cfg.vBase,
        pairCnt := 0#32, rowStride := s.cfg.stride, pairsL := s.cfg.height / 2#32, col := 0#32 } := rfl
@[simp] theorem latchFrame_stage (s : State) : (latchFrame s).stage = s.stage := rfl
@[simp] theorem latchFrame_refused (s : State) : (latchFrame s).refused = s.refused := rfl
@[simp] theorem latchFrame_regRdata (s : State) : (latchFrame s).regRdata = s.regRdata := rfl
@[simp] theorem latchFrame_memPort (s : State) : (latchFrame s).memPort = s.memPort := rfl
@[simp] theorem latchFrame_conv (s : State) : (latchFrame s).conv = some (latched s) := rfl
@[simp] theorem latchFrame_draws (s : State) : (latchFrame s).draws = s.draws := rfl
@[simp] theorem latchFrame_hostData (s : State) : (latchFrame s).hostData = s.hostData := rfl
@[simp] theorem latchFrame_dirty (s : State) : (latchFrame s).dirty = s.dirty := rfl
@[simp] theorem latchFrame_doneUnread (s : State) : (latchFrame s).doneUnread = s.doneUnread := rfl
@[simp] theorem latchFrame_stale (s : State) : (latchFrame s).stale = s.stale := rfl
@[simp] theorem latchFrame_schedule (s : State) : (latchFrame s).schedule = s.schedule := rfl

/-! ### advanceEven -/

@[simp] theorem advanceEven_build (s : State) : (advanceEven s).build = s.build := rfl
@[simp] theorem advanceEven_mem (s : State) : (advanceEven s).mem = s.mem := rfl
@[simp] theorem advanceEven_irqEn (s : State) : (advanceEven s).irqEn = s.irqEn := rfl
@[simp] theorem advanceEven_status (s : State) : (advanceEven s).status = { s.status with phase := true } := rfl
@[simp] theorem advanceEven_cfg (s : State) : (advanceEven s).cfg = s.cfg := rfl
@[simp] theorem advanceEven_work (s : State) :
    (advanceEven s).work = { s.work with
        srcPtr := s.work.srcPtr + s.work.rowStride, lumaPtr := s.work.lumaPtr + s.work.rowStride / 2#32,
        uPtr := s.work.uPtr + s.work.rowStride / 4#32, vPtr := s.work.vPtr + s.work.rowStride / 4#32, col := 0#32 } := rfl
@[simp] theorem advanceEven_stage (s : State) : (advanceEven s).stage = s.stage := rfl
@[simp] theorem advanceEven_refused (s : State) : (advanceEven s).refused = s.refused := rfl
@[simp] theorem advanceEven_regRdata (s : State) : (advanceEven s).regRdata = s.regRdata := rfl
@[simp] theorem advanceEven_memPort (s : State) : (advanceEven s).memPort = [] := rfl
@[simp] theorem advanceEven_conv (s : State) : (advanceEven s).conv = s.conv := rfl
@[simp] theorem advanceEven_draws (s : State) : (advanceEven s).draws = s.draws := rfl
@[simp] theorem advanceEven_hostData (s : State) : (advanceEven s).hostData = s.hostData := rfl
@[simp] theorem advanceEven_dirty (s : State) : (advanceEven s).dirty = s.dirty := rfl
@[simp] theorem advanceEven_doneUnread (s : State) : (advanceEven s).doneUnread = s.doneUnread := rfl
@[simp] theorem advanceEven_stale (s : State) : (advanceEven s).stale = s.stale := rfl
@[simp] theorem advanceEven_schedule (s : State) : (advanceEven s).schedule = s.schedule := rfl

/-! ### advanceOdd -/

@[simp] theorem advanceOdd_build (s : State) : (advanceOdd s).build = s.build := rfl
@[simp] theorem advanceOdd_mem (s : State) : (advanceOdd s).mem = s.mem := rfl
@[simp] theorem advanceOdd_irqEn (s : State) : (advanceOdd s).irqEn = s.irqEn := rfl
@[simp] theorem advanceOdd_status (s : State) :
    (advanceOdd s).status = { s.status with
        phase := false, busy := if lastPair s then false else s.status.busy,
        done := if lastPair s then true else s.status.done } := rfl
@[simp] theorem advanceOdd_cfg (s : State) : (advanceOdd s).cfg = s.cfg := rfl
@[simp] theorem advanceOdd_work (s : State) :
    (advanceOdd s).work = { s.work with
        srcPtr := s.work.srcPtr + s.work.rowStride, lumaPtr := s.work.lumaPtr + s.work.rowStride / 2#32,
        pairCnt := s.work.pairCnt + 1#32, col := 0#32 } := rfl
@[simp] theorem advanceOdd_stage (s : State) : (advanceOdd s).stage = s.stage := rfl
@[simp] theorem advanceOdd_refused (s : State) : (advanceOdd s).refused = s.refused := rfl
@[simp] theorem advanceOdd_regRdata (s : State) : (advanceOdd s).regRdata = s.regRdata := rfl
@[simp] theorem advanceOdd_memPort (s : State) : (advanceOdd s).memPort = [] := rfl
@[simp] theorem advanceOdd_conv (s : State) : (advanceOdd s).conv = s.conv := rfl
@[simp] theorem advanceOdd_draws (s : State) : (advanceOdd s).draws = s.draws := rfl
@[simp] theorem advanceOdd_hostData (s : State) : (advanceOdd s).hostData = s.hostData := rfl
@[simp] theorem advanceOdd_dirty (s : State) : (advanceOdd s).dirty = s.dirty := rfl
@[simp] theorem advanceOdd_doneUnread (s : State) :
    (advanceOdd s).doneUnread = if lastPair s then outputsToInvalidate s ++ s.doneUnread else s.doneUnread := rfl
@[simp] theorem advanceOdd_stale (s : State) : (advanceOdd s).stale = s.stale := rfl
@[simp] theorem advanceOdd_schedule (s : State) : (advanceOdd s).schedule = s.schedule := rfl

/-! ### unitDone -/

@[simp] theorem unitDone_build (n : Nat) (d : List Byte) (ws : UnitWrites) (s : State) :
    (unitDone n d ws s).build = s.build := rfl
@[simp] theorem unitDone_mem (n : Nat) (d : List Byte) (ws : UnitWrites) (s : State) :
    (unitDone n d ws s).mem = s.mem.writeAll ws := rfl
@[simp] theorem unitDone_irqEn (n : Nat) (d : List Byte) (ws : UnitWrites) (s : State) :
    (unitDone n d ws s).irqEn = s.irqEn := rfl
@[simp] theorem unitDone_status (n : Nat) (d : List Byte) (ws : UnitWrites) (s : State) :
    (unitDone n d ws s).status = s.status := rfl
@[simp] theorem unitDone_cfg (n : Nat) (d : List Byte) (ws : UnitWrites) (s : State) :
    (unitDone n d ws s).cfg = s.cfg := rfl
@[simp] theorem unitDone_work (n : Nat) (d : List Byte) (ws : UnitWrites) (s : State) :
    (unitDone n d ws s).work = { s.work with col := s.work.col + BitVec.ofNat 32 n } := rfl
@[simp] theorem unitDone_stage (n : Nat) (d : List Byte) (ws : UnitWrites) (s : State) :
    (unitDone n d ws s).stage = d := rfl
@[simp] theorem unitDone_refused (n : Nat) (d : List Byte) (ws : UnitWrites) (s : State) :
    (unitDone n d ws s).refused = s.refused := rfl
@[simp] theorem unitDone_regRdata (n : Nat) (d : List Byte) (ws : UnitWrites) (s : State) :
    (unitDone n d ws s).regRdata = s.regRdata := rfl
@[simp] theorem unitDone_memPort (n : Nat) (d : List Byte) (ws : UnitWrites) (s : State) :
    (unitDone n d ws s).memPort = MemTxn.read s.unitSrc n d :: ws.map fun w => MemTxn.write w.1 w.2 := rfl
@[simp] theorem unitDone_conv (n : Nat) (d : List Byte) (ws : UnitWrites) (s : State) :
    (unitDone n d ws s).conv = s.conv := rfl
@[simp] theorem unitDone_draws (n : Nat) (d : List Byte) (ws : UnitWrites) (s : State) :
    (unitDone n d ws s).draws = s.draws := rfl
@[simp] theorem unitDone_hostData (n : Nat) (d : List Byte) (ws : UnitWrites) (s : State) :
    (unitDone n d ws s).hostData = s.hostData := rfl
@[simp] theorem unitDone_dirty (n : Nat) (d : List Byte) (ws : UnitWrites) (s : State) :
    (unitDone n d ws s).dirty = s.dirty := rfl
@[simp] theorem unitDone_doneUnread (n : Nat) (d : List Byte) (ws : UnitWrites) (s : State) :
    (unitDone n d ws s).doneUnread = s.doneUnread := rfl
@[simp] theorem unitDone_stale (n : Nat) (d : List Byte) (ws : UnitWrites) (s : State) :
    (unitDone n d ws s).stale = s.stale := rfl
@[simp] theorem unitDone_schedule (n : Nat) (d : List Byte) (ws : UnitWrites) (s : State) :
    (unitDone n d ws s).schedule = s.schedule := rfl

/-! ### refusedState: the fields that stay, memory, and the length of the free host data; the other fields are free -/

@[simp] theorem refusedState_build (s : State) : (refusedState s).build = s.build := rfl
@[simp] theorem refusedState_mem (s : State) : (refusedState s).mem = s.mem.writeAll (undefinedWriteList s.draws) := rfl
@[simp] theorem refusedState_refused (s : State) : (refusedState s).refused = s.refused := rfl
@[simp] theorem refusedState_conv (s : State) : (refusedState s).conv = s.conv := rfl
@[simp] theorem refusedState_draws (s : State) : (refusedState s).draws = s.draws + 1 := rfl
@[simp] theorem refusedState_hostData (s : State) :
    (refusedState s).hostData = undefinedBytes s.draws 1 s.hostData.length := rfl
@[simp] theorem refusedState_dirty (s : State) : (refusedState s).dirty = s.dirty := rfl
@[simp] theorem refusedState_doneUnread (s : State) : (refusedState s).doneUnread = s.doneUnread := rfl
@[simp] theorem refusedState_stale (s : State) : (refusedState s).stale = s.stale := rfl
@[simp] theorem refusedState_schedule (s : State) : (refusedState s).schedule = s.schedule := rfl

/-! ### refuseByHost: the same -/

@[simp] theorem refuseByHost_build (r : RefuseReason) (s : State) : (refuseByHost r s).build = s.build := rfl
@[simp] theorem refuseByHost_mem (r : RefuseReason) (s : State) :
    (refuseByHost r s).mem = s.mem.writeAll (undefinedWriteList s.draws) := rfl
@[simp] theorem refuseByHost_refused (r : RefuseReason) (s : State) :
    (refuseByHost r s).refused = some (s.refused.getD r) := rfl
@[simp] theorem refuseByHost_conv (r : RefuseReason) (s : State) : (refuseByHost r s).conv = s.conv := rfl
@[simp] theorem refuseByHost_draws (r : RefuseReason) (s : State) : (refuseByHost r s).draws = s.draws + 1 := rfl
@[simp] theorem refuseByHost_hostData (r : RefuseReason) (s : State) :
    (refuseByHost r s).hostData = undefinedBytes s.draws 1 s.hostData.length := rfl
@[simp] theorem refuseByHost_dirty (r : RefuseReason) (s : State) : (refuseByHost r s).dirty = s.dirty := rfl
@[simp] theorem refuseByHost_doneUnread (r : RefuseReason) (s : State) : (refuseByHost r s).doneUnread = s.doneUnread := rfl
@[simp] theorem refuseByHost_stale (r : RefuseReason) (s : State) : (refuseByHost r s).stale = s.stale := rfl
@[simp] theorem refuseByHost_schedule (r : RefuseReason) (s : State) : (refuseByHost r s).schedule = s.schedule := rfl

/-! ### cacheClean -/

@[simp] theorem cacheClean_build (a : Addr) (n : Nat) (s : State) : (cacheClean a n s).build = s.build := rfl
@[simp] theorem cacheClean_mem (a : Addr) (n : Nat) (s : State) : (cacheClean a n s).mem = s.mem := rfl
@[simp] theorem cacheClean_irqEn (a : Addr) (n : Nat) (s : State) : (cacheClean a n s).irqEn = s.irqEn := rfl
@[simp] theorem cacheClean_status (a : Addr) (n : Nat) (s : State) : (cacheClean a n s).status = s.status := rfl
@[simp] theorem cacheClean_cfg (a : Addr) (n : Nat) (s : State) : (cacheClean a n s).cfg = s.cfg := rfl
@[simp] theorem cacheClean_work (a : Addr) (n : Nat) (s : State) : (cacheClean a n s).work = s.work := rfl
@[simp] theorem cacheClean_stage (a : Addr) (n : Nat) (s : State) : (cacheClean a n s).stage = s.stage := rfl
@[simp] theorem cacheClean_refused (a : Addr) (n : Nat) (s : State) : (cacheClean a n s).refused = s.refused := rfl
@[simp] theorem cacheClean_regRdata (a : Addr) (n : Nat) (s : State) : (cacheClean a n s).regRdata = s.regRdata := rfl
@[simp] theorem cacheClean_memPort (a : Addr) (n : Nat) (s : State) : (cacheClean a n s).memPort = s.memPort := rfl
@[simp] theorem cacheClean_conv (a : Addr) (n : Nat) (s : State) : (cacheClean a n s).conv = s.conv := rfl
@[simp] theorem cacheClean_draws (a : Addr) (n : Nat) (s : State) : (cacheClean a n s).draws = s.draws := rfl
@[simp] theorem cacheClean_hostData (a : Addr) (n : Nat) (s : State) : (cacheClean a n s).hostData = s.hostData := rfl
@[simp] theorem cacheClean_dirty (a : Addr) (n : Nat) (s : State) :
    (cacheClean a n s).dirty = s.dirty.flatMap fun r => r.minus ⟨a, n⟩ := rfl
@[simp] theorem cacheClean_doneUnread (a : Addr) (n : Nat) (s : State) : (cacheClean a n s).doneUnread = s.doneUnread := rfl
@[simp] theorem cacheClean_stale (a : Addr) (n : Nat) (s : State) : (cacheClean a n s).stale = s.stale := rfl
@[simp] theorem cacheClean_schedule (a : Addr) (n : Nat) (s : State) : (cacheClean a n s).schedule = s.schedule := rfl

/-! ### cacheInvalidate -/

@[simp] theorem cacheInvalidate_build (a : Addr) (n : Nat) (s : State) : (cacheInvalidate a n s).build = s.build := rfl
@[simp] theorem cacheInvalidate_mem (a : Addr) (n : Nat) (s : State) : (cacheInvalidate a n s).mem = s.mem := rfl
@[simp] theorem cacheInvalidate_irqEn (a : Addr) (n : Nat) (s : State) : (cacheInvalidate a n s).irqEn = s.irqEn := rfl
@[simp] theorem cacheInvalidate_status (a : Addr) (n : Nat) (s : State) :
    (cacheInvalidate a n s).status = s.status := rfl
@[simp] theorem cacheInvalidate_cfg (a : Addr) (n : Nat) (s : State) : (cacheInvalidate a n s).cfg = s.cfg := rfl
@[simp] theorem cacheInvalidate_work (a : Addr) (n : Nat) (s : State) : (cacheInvalidate a n s).work = s.work := rfl
@[simp] theorem cacheInvalidate_stage (a : Addr) (n : Nat) (s : State) : (cacheInvalidate a n s).stage = s.stage := rfl
@[simp] theorem cacheInvalidate_refused (a : Addr) (n : Nat) (s : State) :
    (cacheInvalidate a n s).refused = s.refused := rfl
@[simp] theorem cacheInvalidate_regRdata (a : Addr) (n : Nat) (s : State) :
    (cacheInvalidate a n s).regRdata = s.regRdata := rfl
@[simp] theorem cacheInvalidate_memPort (a : Addr) (n : Nat) (s : State) :
    (cacheInvalidate a n s).memPort = s.memPort := rfl
@[simp] theorem cacheInvalidate_conv (a : Addr) (n : Nat) (s : State) : (cacheInvalidate a n s).conv = s.conv := rfl
@[simp] theorem cacheInvalidate_draws (a : Addr) (n : Nat) (s : State) : (cacheInvalidate a n s).draws = s.draws := rfl
@[simp] theorem cacheInvalidate_hostData (a : Addr) (n : Nat) (s : State) :
    (cacheInvalidate a n s).hostData = s.hostData := rfl
@[simp] theorem cacheInvalidate_dirty (a : Addr) (n : Nat) (s : State) : (cacheInvalidate a n s).dirty = s.dirty := rfl
@[simp] theorem cacheInvalidate_doneUnread (a : Addr) (n : Nat) (s : State) :
    (cacheInvalidate a n s).doneUnread = s.doneUnread := rfl
@[simp] theorem cacheInvalidate_stale (a : Addr) (n : Nat) (s : State) :
    (cacheInvalidate a n s).stale = s.stale.flatMap fun r => r.minus ⟨a, n⟩ := rfl
@[simp] theorem cacheInvalidate_schedule (a : Addr) (n : Nat) (s : State) :
    (cacheInvalidate a n s).schedule = s.schedule := rfl

/-! ### resetEvent -/

@[simp] theorem resetEvent_build (s : State) : (resetEvent s).build = s.build := rfl
@[simp] theorem resetEvent_mem (s : State) : (resetEvent s).mem = s.mem := rfl
@[simp] theorem resetEvent_irqEn (s : State) : (resetEvent s).irqEn = false := rfl
@[simp] theorem resetEvent_status (s : State) : (resetEvent s).status = Status.reset := rfl
@[simp] theorem resetEvent_cfg (s : State) : (resetEvent s).cfg = ConfigRegs.reset := rfl
@[simp] theorem resetEvent_work (s : State) : (resetEvent s).work = WorkRegs.reset := rfl
@[simp] theorem resetEvent_stage (s : State) :
    (resetEvent s).stage = List.replicate s.build.strategy.unitBytes 0#8 := rfl
@[simp] theorem resetEvent_refused (s : State) : (resetEvent s).refused = s.refused := rfl
@[simp] theorem resetEvent_regRdata (s : State) : (resetEvent s).regRdata = s.regRdata := rfl
@[simp] theorem resetEvent_memPort (s : State) : (resetEvent s).memPort = [] := rfl
@[simp] theorem resetEvent_conv (s : State) : (resetEvent s).conv = none := rfl
@[simp] theorem resetEvent_draws (s : State) : (resetEvent s).draws = s.draws := rfl
@[simp] theorem resetEvent_hostData (s : State) : (resetEvent s).hostData = s.hostData := rfl
@[simp] theorem resetEvent_dirty (s : State) : (resetEvent s).dirty = s.dirty := rfl
@[simp] theorem resetEvent_doneUnread (s : State) : (resetEvent s).doneUnread = s.doneUnread := rfl
@[simp] theorem resetEvent_stale (s : State) :
    (resetEvent s).stale = if s.status.busy then outputsToInvalidate s ++ s.stale else s.stale := rfl
@[simp] theorem resetEvent_schedule (s : State) : (resetEvent s).schedule = s.schedule := rfl

/-! ### frameStart and acceptStart: the fields that do not depend on the premises -/

@[simp] theorem frameStart_build (s : State) : (frameStart s).build = (latchFrame s).build := by
  unfold frameStart; dsimp only; split <;> split <;> rfl
@[simp] theorem frameStart_mem (s : State) : (frameStart s).mem = (latchFrame s).mem := by
  unfold frameStart; dsimp only; split <;> split <;> rfl
@[simp] theorem frameStart_irqEn (s : State) : (frameStart s).irqEn = (latchFrame s).irqEn := by
  unfold frameStart; dsimp only; split <;> split <;> rfl
@[simp] theorem frameStart_status (s : State) : (frameStart s).status = (latchFrame s).status := by
  unfold frameStart; dsimp only; split <;> split <;> rfl
@[simp] theorem frameStart_cfg (s : State) : (frameStart s).cfg = (latchFrame s).cfg := by
  unfold frameStart; dsimp only; split <;> split <;> rfl
@[simp] theorem frameStart_work (s : State) : (frameStart s).work = (latchFrame s).work := by
  unfold frameStart; dsimp only; split <;> split <;> rfl
@[simp] theorem frameStart_stage (s : State) : (frameStart s).stage = (latchFrame s).stage := by
  unfold frameStart; dsimp only; split <;> split <;> rfl
@[simp] theorem frameStart_regRdata (s : State) : (frameStart s).regRdata = (latchFrame s).regRdata := by
  unfold frameStart; dsimp only; split <;> split <;> rfl
@[simp] theorem frameStart_memPort (s : State) : (frameStart s).memPort = (latchFrame s).memPort := by
  unfold frameStart; dsimp only; split <;> split <;> rfl
@[simp] theorem frameStart_conv (s : State) : (frameStart s).conv = (latchFrame s).conv := by
  unfold frameStart; dsimp only; split <;> split <;> rfl
@[simp] theorem frameStart_draws (s : State) : (frameStart s).draws = (latchFrame s).draws := by
  unfold frameStart; dsimp only; split <;> split <;> rfl
@[simp] theorem frameStart_hostData (s : State) : (frameStart s).hostData = (latchFrame s).hostData := by
  unfold frameStart; dsimp only; split <;> split <;> rfl
@[simp] theorem frameStart_dirty (s : State) : (frameStart s).dirty = (latchFrame s).dirty := by
  unfold frameStart; dsimp only; split <;> split <;> rfl
@[simp] theorem frameStart_doneUnread (s : State) : (frameStart s).doneUnread = (latchFrame s).doneUnread := by
  unfold frameStart; dsimp only; split <;> split <;> rfl
@[simp] theorem frameStart_stale (s : State) : (frameStart s).stale = (latchFrame s).stale := by
  unfold frameStart; dsimp only; split <;> split <;> rfl
@[simp] theorem frameStart_schedule (s : State) : (frameStart s).schedule = (latchFrame s).schedule := by
  unfold frameStart; dsimp only; split <;> split <;> rfl

/-! ### settle and hostLearns -/

@[simp] theorem settle_none {s : State} (h : s.refused = none) (t : State) : settle s t = t := by simp [settle, h]
@[simp] theorem settle_refused (s t : State) : (settle s t).refused = t.refused := by unfold settle; split <;> rfl
@[simp] theorem settle_build (s t : State) : (settle s t).build = t.build := by unfold settle; split <;> rfl
@[simp] theorem settle_schedule (s t : State) : (settle s t).schedule = t.schedule := by unfold settle; split <;> rfl

/-- What the host learns changes its own record only. -/
theorem hostLearns_frame (i : Instr) (s : State) :
    hostLearns i s = { s with doneUnread := (hostLearns i s).doneUnread, stale := (hostLearns i s).stale } := by
  unfold hostLearns; split <;> rfl

end Sys2Proof.Machine
end

