-- ==== Sys2Proof/Laws/Memory.lean ====
section
/-! SUPPORT. The laws of memory: what a read gives after a write, and that every memory operation keeps the canonical
form, in which equal contents are equal data. -/

namespace Sys2Proof.Machine

theorem Memory.read_without_same (m : Memory) (a : Nat) : Memory.read (Memory.without m a) a = Config.unwrittenByte := by
  induction m with
  | nil => rfl
  | cons c rest ih =>
    obtain ⟨k, v⟩ := c
    by_cases h : k = a
    · simpa [Memory.without, h] using ih
    · simpa [Memory.without, h, Memory.read] using ih

theorem Memory.read_without_other (m : Memory) {a x : Nat} (hx : x ≠ a) :
    Memory.read (Memory.without m a) x = Memory.read m x := by
  induction m with
  | nil => rfl
  | cons c rest ih =>
    obtain ⟨k, v⟩ := c
    by_cases h : k = a
    · have hk : k ≠ x := fun e => hx (e ▸ h)
      simp only [Memory.without, List.filter_cons, h, bne_self_eq_false, Bool.false_eq_true, if_false, Memory.read]
      rw [if_neg (h ▸ hk)]
      exact ih
    · have : Memory.without ((k, v) :: rest) a = (k, v) :: Memory.without rest a := by simp [Memory.without, h]
      rw [this]
      by_cases hk : k = x
      · simp [Memory.read, hk]
      · simpa [Memory.read, hk] using ih

theorem Memory.read_place_other (m : Memory) {a x : Nat} (b : Byte) (hx : x ≠ a) :
    Memory.read (Memory.place m a b) x = Memory.read m x := by
  induction m with
  | nil => simp [Memory.place, Memory.read, Ne.symm hx]
  | cons c rest ih =>
    obtain ⟨k, v⟩ := c
    by_cases h : a < k
    · simp [Memory.place, h, Memory.read, Ne.symm hx]
    · rw [Memory.place, if_neg h, Memory.read, Memory.read, ih]

theorem Memory.read_place_same (m : Memory) (a : Nat) (b : Byte) (hm : ∀ c ∈ m, c.1 ≠ a) :
    Memory.read (Memory.place m a b) a = b := by
  induction m with
  | nil => simp [Memory.place, Memory.read]
  | cons c rest ih =>
    obtain ⟨k, v⟩ := c
    have hk : k ≠ a := hm (k, v) (by simp)
    by_cases h : a < k
    · simp [Memory.place, h, Memory.read]
    · simpa [Memory.place, h, Memory.read, hk] using ih fun c hc => hm c (by simp [hc])

/-- A read of the byte just written gives the value written (20_memory.md R75, R76), in every memory. -/
@[simp] theorem Memory.read_write_same (m : Memory) (a : Nat) (b : Byte) : Memory.read (Memory.write m a b) a = b := by
  unfold Memory.write
  split
  · next h => rw [Memory.read_without_same, h]
  · exact Memory.read_place_same _ _ _ fun c hc => by simpa [Memory.without] using (List.mem_filter.mp hc).2

/-- A write leaves every other byte alone. -/
theorem Memory.read_write_other (m : Memory) {a x : Nat} (b : Byte) (hx : x ≠ a) :
    Memory.read (Memory.write m a b) x = Memory.read m x := by
  unfold Memory.write
  split
  · exact Memory.read_without_other m hx
  · rw [Memory.read_place_other _ b hx, Memory.read_without_other m hx]

/-- A read after a write, both cases at once. -/
theorem Memory.read_write (m : Memory) (a x : Nat) (b : Byte) :
    Memory.read (Memory.write m a b) x = if x = a then b else Memory.read m x := by
  split
  · next h => rw [h, Memory.read_write_same]
  · next h => exact Memory.read_write_other m b h

/-! ### The canonical form -/

theorem Memory.mem_place {m : Memory} {a : Nat} {b : Byte} {c : Host.Cell} (hc : c ∈ Memory.place m a b) :
    c = (a, b) ∨ c ∈ m := by
  induction m with
  | nil => simpa [Memory.place] using hc
  | cons d rest ih =>
    obtain ⟨k, v⟩ := d
    by_cases h : a < k
    · simpa [Memory.place, h] using hc
    · rw [Memory.place, if_neg h, List.mem_cons] at hc
      rcases hc with hc | hc
      · exact Or.inr (by simp [hc])
      · rcases ih hc with h | h
        · exact Or.inl h
        · exact Or.inr (by simp [h])

theorem Memory.without_wf {m : Memory} (a : Nat) (hm : m.wf) : (Memory.without m a).wf :=
  ⟨hm.1.filter _, fun c hc => hm.2 c (List.mem_filter.mp hc).1⟩

theorem Memory.place_wf {m : Memory} {a : Nat} {b : Byte} (hm : m.wf) (ha : a < addrSpace) (hb : b ≠ Config.unwrittenByte)
    (hn : ∀ c ∈ m, c.1 ≠ a) : (Memory.place m a b).wf := by
  refine ⟨?_, fun c hc => (Memory.mem_place hc).elim (fun h => by simp [h, ha, hb]) (hm.2 c)⟩
  obtain ⟨hs, -⟩ := hm
  induction m with
  | nil => simp [Memory.place]
  | cons d rest ih =>
    obtain ⟨k, v⟩ := d
    rw [List.pairwise_cons] at hs
    by_cases h : a < k
    · rw [Memory.place, if_pos h]
      refine List.pairwise_cons.mpr ⟨fun c hc => ?_, List.pairwise_cons.mpr hs⟩
      rcases List.mem_cons.mp hc with hc | hc
      · simpa [hc] using h
      · exact h.trans (hs.1 c hc)
    · rw [Memory.place, if_neg h]
      have hk : k ≠ a := hn (k, v) (by simp)
      refine List.pairwise_cons.mpr ⟨fun c hc => ?_, ih (fun c hc => hn c (by simp [hc])) hs.2⟩
      rcases Memory.mem_place hc with hc | hc
      · simp only [hc]; omega
      · exact hs.1 c hc

/-- A write keeps the canonical form. -/
theorem Memory.write_wf {m : Memory} {a : Nat} (b : Byte) (hm : m.wf) (ha : a < addrSpace) : (Memory.write m a b).wf := by
  unfold Memory.write
  split
  · exact Memory.without_wf a hm
  · next hb =>
    exact Memory.place_wf (Memory.without_wf a hm) ha hb fun c hc => by
      simpa [Memory.without] using (List.mem_filter.mp hc).2

theorem Addr.toNat_lt_addrSpace (a : Addr) : a.toNat < addrSpace := a.isLt

theorem Memory.writeBytes_wf {m : Memory} (a : Addr) (bs : List Byte) (hm : m.wf) : (Memory.writeBytes m a bs).wf := by
  induction bs generalizing m a with
  | nil => exact hm
  | cons b rest ih => exact ih _ (Memory.write_wf b hm (Addr.toNat_lt_addrSpace a))

theorem Memory.writeAll_wf {m : Memory} (ws : UnitWrites) (hm : m.wf) : (Memory.writeAll m ws).wf := by
  unfold Memory.writeAll
  induction ws generalizing m with
  | nil => exact hm
  | cons w rest ih => exact ih (Memory.writeBytes_wf w.1 w.2 hm)

theorem Memory.read_eq_unwritten {m : Memory} {a : Nat} (h : ∀ c ∈ m, c.1 ≠ a) : Memory.read m a = Config.unwrittenByte := by
  induction m with
  | nil => rfl
  | cons d rest ih =>
    obtain ⟨k, v⟩ := d
    have hk : k ≠ a := h (k, v) (by simp)
    simpa [Memory.read, hk] using ih fun c hc => h c (by simp [hc])

/-- Two canonical memories with the same contents are the same data. -/
theorem Memory.ext_of_wf {m n : Memory} (hm : m.wf) (hn : n.wf) (h : ∀ a, Memory.read m a = Memory.read n a) : m = n := by
  induction m generalizing n with
  | nil =>
    cases n with
    | nil => rfl
    | cons d rest =>
      have := h d.1
      simp only [Memory.read, if_true] at this
      exact absurd this.symm (hn.2 d (by simp)).2
  | cons c rest ih =>
    obtain ⟨k, v⟩ := c
    cases n with
    | nil =>
      have := h k
      simp only [Memory.read, if_true] at this
      exact absurd this (hm.2 (k, v) (by simp)).2
    | cons d rest' =>
      obtain ⟨k', v'⟩ := d
      have hs := List.pairwise_cons.mp hm.1
      have hs' := List.pairwise_cons.mp hn.1
      have hkk : k = k' := by
        rcases Nat.lt_trichotomy k k' with hlt | heq | hgt
        · have h1 := h k
          rw [Memory.read, if_pos rfl, Memory.read_eq_unwritten (m := (k', v') :: rest')] at h1
          · exact absurd h1 (hm.2 (k, v) (by simp)).2
          · intro c hc
            rcases List.mem_cons.mp hc with hc | hc
            · simp only [hc]; omega
            · have := hs'.1 c hc; simp only at this; omega
        · exact heq
        · have h1 := h k'
          rw [Memory.read_eq_unwritten (m := (k, v) :: rest), Memory.read, if_pos rfl] at h1
          · exact absurd h1.symm (hn.2 (k', v') (by simp)).2
          · intro c hc
            rcases List.mem_cons.mp hc with hc | hc
            · simp only [hc]; omega
            · have := hs.1 c hc; simp only at this; omega
      subst hkk
      have hv : v = v' := by simpa [Memory.read] using h k
      subst hv
      refine congrArg _ (ih ⟨hs.2, fun c hc => hm.2 c (by simp [hc])⟩ ⟨hs'.2, fun c hc => hn.2 c (by simp [hc])⟩ fun a => ?_)
      by_cases ha : k = a
      · subst ha
        rw [Memory.read_eq_unwritten fun c hc => (hs.1 c hc).ne', Memory.read_eq_unwritten fun c hc => (hs'.1 c hc).ne']
      · simpa [Memory.read, ha] using h a

/-! ### Byte sequences -/

@[simp] theorem Memory.readBytes_length (m : Memory) (a : Addr) (n : Nat) : (Memory.readBytes m a n).length = n := by
  induction n generalizing a with
  | zero => rfl
  | succ n ih => simp [Memory.readBytes, ih]

theorem Addr.add_ofNat_succ (a : Addr) (i : Nat) : a + 1#32 + BitVec.ofNat 32 i = a + BitVec.ofNat 32 (i + 1) := by
  rw [BitVec.add_assoc, ← BitVec.ofNat_add, Nat.add_comm]

/-- Byte `i` of a read is the byte at `a + i` (20_memory.md R75). -/
theorem Memory.readBytes_getElem (m : Memory) (a : Addr) (n i : Nat) (h : i < (Memory.readBytes m a n).length) :
    (Memory.readBytes m a n)[i] = Memory.read m (a + BitVec.ofNat 32 i).toNat := by
  induction n generalizing a i with
  | zero => simp [Memory.readBytes] at h
  | succ n ih =>
    cases i with
    | zero => simp [Memory.readBytes]
    | succ i =>
      have h' : i < (Memory.readBytes m (a + 1#32) n).length := by simpa using h
      simpa [Memory.readBytes, Addr.add_ofNat_succ] using ih (a + 1#32) i h'

/-- A read is the list of the bytes at `a`, `a + 1`, ... -/
theorem Memory.readBytes_eq_map (m : Memory) (a : Addr) (n : Nat) :
    Memory.readBytes m a n = (List.range n).map fun i => Memory.read m (a + BitVec.ofNat 32 i).toNat :=
  List.ext_getElem (by simp) fun i h _ => by simpa using Memory.readBytes_getElem m a n i h

/-- A byte outside a write's addresses is left alone (20_memory.md R76). -/
theorem Memory.read_writeBytes_other (m : Memory) (a x : Addr) (bs : List Byte)
    (h : ∀ i, i < bs.length → x ≠ a + BitVec.ofNat 32 i) :
    Memory.read (Memory.writeBytes m a bs) x.toNat = Memory.read m x.toNat := by
  induction bs generalizing m a with
  | nil => rfl
  | cons b rest ih =>
    rw [Memory.writeBytes, ih]
    · refine Memory.read_write_other m b fun e => h 0 (by simp) ?_
      simpa using BitVec.eq_of_toNat_eq e
    · intro i hi
      rw [Addr.add_ofNat_succ]
      exact h (i + 1) (by simpa using hi)

/-- Byte `i` of a write is at `a + i` afterwards, when the write is no longer than the address space (20_memory.md
R76). -/
theorem Memory.read_writeBytes_getElem (m : Memory) (a : Addr) (bs : List Byte) (hl : bs.length ≤ addrSpace) (i : Nat)
    (hi : i < bs.length) : Memory.read (Memory.writeBytes m a bs) (a + BitVec.ofNat 32 i).toNat = bs[i] := by
  induction bs generalizing m a i with
  | nil => simp at hi
  | cons b rest ih =>
    have hl' : rest.length + 1 ≤ addrSpace := by simpa using hl
    cases i with
    | zero =>
      rw [Memory.writeBytes, Memory.read_writeBytes_other]
      · simp
      · intro j hj e
        rw [Addr.add_ofNat_succ] at e
        have e' := congrArg BitVec.toNat (BitVec.add_right_inj a |>.mp e)
        simp only [BitVec.toNat_ofNat, addrSpace] at e' hl'
        omega
    | succ i =>
      have := ih (m := Memory.write m a.toNat b) (a := a + 1#32) (by omega) i (by simpa using hi)
      simpa [Memory.writeBytes, Addr.add_ofNat_succ] using this

end Sys2Proof.Machine
end

