-- ==== Sys2Proof/Laws/Regions.lean ====
section
/-! SUPPORT. Regions as sets of addresses, and what admission says. -/

namespace Sys2Proof.Machine

theorem Region.contains_eq_true (r : Region) (a : Addr) : r.contains a = true ↔ (a - r.base).toNat < r.size := by
  simp [Region.contains]

/-- An address is in a region exactly when it is `base + i` modulo `2^32` for some `i < size` (20_memory.md R78). -/
theorem Region.contains_iff (r : Region) (a : Addr) :
    r.contains a = true ↔ ∃ i, i < r.size ∧ a = r.base + BitVec.ofNat 32 i := by
  rw [Region.contains_eq_true]
  constructor
  · intro h
    exact ⟨(a - r.base).toNat, h, by rw [BitVec.ofNat_toNat, BitVec.setWidth_eq, add_sub_cancel]⟩
  · rintro ⟨i, hi, rfl⟩
    rw [add_sub_cancel_left, BitVec.toNat_ofNat]
    exact lt_of_le_of_lt (Nat.mod_le _ _) hi

/-- The test of `Region.disjoint` says that no address is in both regions. -/
theorem Region.disjoint_iff (r q : Region) :
    r.disjoint q = true ↔ ∀ a, ¬ (r.contains a = true ∧ q.contains a = true) := by
  simp only [Region.disjoint, decide_eq_true_eq, Region.contains_eq_true]
  constructor
  · rintro h a ⟨h1, h2⟩
    simp only [BitVec.toNat_sub] at h h1 h2
    have := a.isLt; have := r.base.isLt; have := q.base.isLt
    omega
  · intro h
    have h1 := h q.base
    have h2 := h r.base
    simp only [BitVec.toNat_sub] at h1 h2 ⊢
    have := r.base.isLt; have := q.base.isLt
    omega

theorem Region.disjoint_comm (r q : Region) : r.disjoint q = q.disjoint r := by
  rw [Bool.eq_iff_iff, Region.disjoint_iff, Region.disjoint_iff]
  exact forall_congr' fun a => not_congr and_comm

/-- A byte of a region is not in a region disjoint from it. -/
theorem Region.contains_false_of_disjoint {r q : Region} (h : r.disjoint q = true) {a : Addr} (ha : r.contains a = true) :
    q.contains a = false := by
  cases hq : q.contains a
  · rfl
  · exact absurd ⟨ha, hq⟩ ((Region.disjoint_iff r q).mp h a)

/-- The offset of an address from a base moved on. -/
theorem Addr.offset_add (a b : Addr) (k : Nat) :
    (a - (b + BitVec.ofNat 32 k)).toNat = ((a - b).toNat + (4294967296 - k % 4294967296)) % 4294967296 := by
  rw [← sub_sub, BitVec.toNat_sub, BitVec.toNat_ofNat]
  omega

/-- The two parts of `Region.minus`, by offsets from the region's base. -/
theorem Region.minus_offsets {i o n m : Nat} (hi : i < 4294967296) (ho : o < 4294967296) :
    (let size := min n 4294967296
     let w := o + m - 4294967296
     ((i + (4294967296 - w % 4294967296)) % 4294967296 < min o size - w
      ∨ (i + (4294967296 - (o + m) % 4294967296)) % 4294967296 < size - (o + m)))
    ↔ i < n ∧ ¬ (i + (4294967296 - o)) % 4294967296 < m := by
  dsimp only
  constructor
  · rintro (h | h)
    · have : o + m - 4294967296 < 4294967296 := by omega
      rw [Nat.mod_eq_of_lt this] at h
      omega
    · have : o + m < 4294967296 := by omega
      rw [Nat.mod_eq_of_lt this] at h
      omega
  · rintro ⟨h1, h2⟩
    by_cases h : i < o
    · left
      have : o + m - 4294967296 < 4294967296 := by omega
      rw [Nat.mod_eq_of_lt this]
      omega
    · right
      have : o + m < 4294967296 := by omega
      rw [Nat.mod_eq_of_lt this]
      omega

/-- `Region.minus` takes away exactly the addresses of the other region. -/
theorem Region.contains_minus (r q : Region) (a : Addr) :
    (∃ p ∈ r.minus q, p.contains a = true) ↔ r.contains a = true ∧ q.contains a = false := by
  have e : (a - q.base).toNat = ((a - r.base).toNat + (4294967296 - (q.base - r.base).toNat)) % 4294967296 := by
    rw [← sub_sub_sub_cancel_right a q.base r.base, BitVec.toNat_sub]; congr 1; omega
  rw [← Bool.not_eq_true, Region.contains_eq_true, Region.contains_eq_true, e,
    ← Region.minus_offsets (a - r.base).isLt (q.base - r.base).isLt]
  simp only [Region.minus, List.mem_filter, List.mem_cons, List.not_mem_nil, or_false, bne_iff_ne, addrSpace]
  constructor
  · rintro ⟨p, ⟨rfl | rfl, -⟩, h⟩ <;> rw [Region.contains_eq_true, Addr.offset_add] at h
    · exact .inl h
    · exact .inr h
  · rintro (h | h)
    · exact ⟨_, ⟨.inl rfl, Nat.ne_zero_of_lt h⟩, by rw [Region.contains_eq_true, Addr.offset_add]; exact h⟩
    · exact ⟨_, ⟨.inr rfl, Nat.ne_zero_of_lt h⟩, by rw [Region.contains_eq_true, Addr.offset_add]; exact h⟩

/-- Taking a region away from a list of regions takes away exactly its addresses. -/
theorem Region.contains_flatMap_minus (l : List Region) (q : Region) (a : Addr) :
    (∃ p ∈ l.flatMap fun r => r.minus q, p.contains a = true) ↔ (∃ r ∈ l, r.contains a = true) ∧ q.contains a = false := by
  constructor
  · rintro ⟨p, hp, ha⟩
    obtain ⟨r, hr, hp⟩ := List.mem_flatMap.mp hp
    obtain ⟨h1, h2⟩ := (Region.contains_minus r q a).mp ⟨p, hp, ha⟩
    exact ⟨⟨r, hr, h1⟩, h2⟩
  · rintro ⟨⟨r, hr, h1⟩, h2⟩
    obtain ⟨p, hp, ha⟩ := (Region.contains_minus r q a).mpr ⟨h1, h2⟩
    exact ⟨p, List.mem_flatMap.mpr ⟨r, hr, hp⟩, ha⟩

/-- A transaction is admitted exactly when every byte it names is admitted for its direction (20_memory.md R80). -/
theorem Build.admits_iff (b : Build) (w : Bool) (a : Addr) (n : Nat) :
    b.admits w a n = true ↔ ∀ i, i < n → b.admitsByte w (a + BitVec.ofNat 32 i) = true := by
  induction n generalizing a with
  | zero => simp [Build.admits]
  | succ n ih =>
    rw [Build.admits, Bool.and_eq_true, ih]
    constructor
    · rintro ⟨h0, h⟩ i hi
      cases i with
      | zero => simpa using h0
      | succ i => rw [← Addr.add_ofNat_succ]; exact h i (by omega)
    · intro h
      exact ⟨by simpa using h 0 (by omega), fun i hi => by rw [Addr.add_ofNat_succ]; exact h (i + 1) (by omega)⟩

end Sys2Proof.Machine
end

