-- ==== Sys2Proof/Laws/Unit.lean ====
section
/-! SUPPORT. The lanes of a unit, and everything a unit operation and a run of units can do. -/

namespace Sys2Proof.Machine

/-! ### Lanes -/

theorem evenLanes_length : ∀ l : List Byte, (evenLanes l).length = (l.length + 1) / 2
  | [] => rfl
  | [_] => by simp [evenLanes]
  | _ :: _ :: rest => by simp [evenLanes, evenLanes_length rest]; omega

theorem oddLanes_length : ∀ l : List Byte, (oddLanes l).length = l.length / 2
  | [] => rfl
  | [_] => by simp [oddLanes]
  | _ :: _ :: rest => by simp [oddLanes, oddLanes_length rest]; omega

/-- Lane `i` of the even stream is byte `2i` (40_even_row_unpacker.md R134). -/
theorem evenLanes_getElem? : ∀ (l : List Byte) (i : Nat), (evenLanes l)[i]? = l[2 * i]?
  | [], i => by simp [evenLanes]
  | [b], i => by cases i <;> simp [evenLanes, Nat.mul_add]
  | b :: c :: rest, 0 => rfl
  | b :: c :: rest, i + 1 => by simp [evenLanes, evenLanes_getElem? rest i, Nat.mul_add]

/-- Lane `i` of the odd stream is byte `2i + 1` (R134). -/
theorem oddLanes_getElem? : ∀ (l : List Byte) (i : Nat), (oddLanes l)[i]? = l[2 * i + 1]?
  | [], i => by simp [oddLanes]
  | [b], i => by simp [oddLanes]
  | b :: c :: rest, 0 => rfl
  | b :: c :: rest, i + 1 => by simp [oddLanes, oddLanes_getElem? rest i, Nat.mul_add]

theorem lumaStream_getElem? (l : List Byte) (i : Nat) : (lumaStream l)[i]? = l[2 * i]? := evenLanes_getElem? l i

theorem uStream_getElem? (l : List Byte) (j : Nat) : (uStream l)[j]? = l[4 * j + 1]? := by
  rw [uStream, evenLanes_getElem?, oddLanes_getElem?]; congr 1; omega

theorem vStream_getElem? (l : List Byte) (j : Nat) : (vStream l)[j]? = l[4 * j + 3]? := by
  rw [vStream, oddLanes_getElem?, oddLanes_getElem?]; congr 1; omega

theorem lumaStream_length (l : List Byte) : (lumaStream l).length = (l.length + 1) / 2 := evenLanes_length l

theorem uStream_length (l : List Byte) : (uStream l).length = (l.length / 2 + 1) / 2 := by
  rw [uStream, evenLanes_length, oddLanes_length]

theorem vStream_length (l : List Byte) : (vStream l).length = l.length / 2 / 2 := by
  rw [vStream, oddLanes_length, oddLanes_length]

/-! ### A unit -/

@[simp] theorem unitData_length (n : Nat) (s : State) : (unitData n s).length = n := by
  simp [unitData]

/-- Everything a converter step's effect can be: its rule's, in a run that is not refused; free, in one that is. -/
theorem converterEffect_cases (f : State → State) (s : State) :
    (s.refused = none ∧ converterEffect f s = f s) ∨ (s.refused ≠ none ∧ converterEffect f s = refusedState s) := by
  unfold converterEffect
  cases h : s.refused <;> simp

/-- The free writes of a refused run keep memory's canonical form. -/
theorem refusedState_wf {s : State} (hm : s.mem.wf) : (refusedState s).mem.wf := Memory.writeAll_wf _ hm

theorem settle_wf (s : State) {t : State} (hm : t.mem.wf) : (settle s t).mem.wf := by
  unfold settle; split
  · exact refusedState_wf hm
  · exact hm

/-- Everything a unit operation can do: one next state when its transactions are admitted, and stuck otherwise
(20_memory.md R80). -/
theorem unitStep_cases (n : Nat) (route : State → List Byte → UnitWrites) (s : State) :
    (unitAdmitted n (route s (unitData n s)) s = true
      ∧ unitStep n route s = .next (converterEffect (unitDone n (unitData n s) (route s (unitData n s))) s))
    ∨ (unitAdmitted n (route s (unitData n s)) s = false ∧ unitStep n route s = .fault .notAdmitted) := by
  unfold unitStep
  cases h : unitAdmitted n (route s (unitData n s)) s <;> simp [h]

/-- The next state of a unit operation, in a run that is not refused and in one that is. -/
theorem unitStep_next {n : Nat} {route : State → List Byte → UnitWrites} {s t : State} (h : unitStep n route s = .next t) :
    (s.refused = none ∧ t = unitDone n (unitData n s) (route s (unitData n s)) s) ∨ (s.refused ≠ none ∧ t = refusedState s) := by
  rcases unitStep_cases n route s with ⟨-, e⟩ | ⟨-, e⟩
  · rw [e] at h; cases h; exact converterEffect_cases _ s
  · rw [e] at h; cases h

/-- A byte that none of a list of writes names is left alone. -/
theorem Memory.read_writeAll_other (m : Memory) (ws : UnitWrites) (x : Addr)
    (h : ∀ w ∈ ws, ∀ i, i < w.2.length → x ≠ w.1 + BitVec.ofNat 32 i) :
    Memory.read (Memory.writeAll m ws) x.toNat = Memory.read m x.toNat := by
  unfold Memory.writeAll
  induction ws generalizing m with
  | nil => rfl
  | cons w rest ih =>
    rw [List.foldl_cons, ih _ fun v hv => h v (by simp [hv])]
    exact Memory.read_writeBytes_other m w.1 x w.2 (h w (by simp))

/-- Everything a run of at least one unit can do: its first unit is stuck; or it is done and the rest of the run ends in a
next state; or it is done and the rest is stuck at once. -/
theorem runUnits_cases (n : Nat) (route : State → List Byte → UnitWrites) (k : Nat) (s : State) :
    let t := converterEffect (unitDone n (unitData n s) (route s (unitData n s))) s
    (unitAdmitted n (route s (unitData n s)) s = false ∧ runUnits n route (k + 1) s = .fault .notAdmitted)
    ∨ (unitAdmitted n (route s (unitData n s)) s = true
      ∧ ((∃ u, runUnits n route k t = .next u ∧ runUnits n route (k + 1) s = .next u)
        ∨ ((∀ u, runUnits n route k t ≠ .next u) ∧ runUnits n route (k + 1) s = .next t))) := by
  intro t
  rcases unitStep_cases n route s with ⟨ha, e⟩ | ⟨ha, e⟩
  · refine .inr ⟨ha, ?_⟩
    rw [runUnits, e]
    cases h : runUnits n route k t with
    | next u => exact .inl ⟨u, rfl, by simp only [t] at h; simp only [h]⟩
    | fault r => exact .inr ⟨fun u => by simp, by simp only [t] at h; simp only [h, t]⟩
    | refused r => exact .inr ⟨fun u => by simp, by simp only [t] at h; simp only [h, t]⟩
  · exact .inl ⟨ha, by rw [runUnits, e]⟩

/-- What a predicate kept by every unit says of a run of units (the induction, once). -/
theorem runUnits_keeps {n : Nat} {route : State → List Byte → UnitWrites} (P : State → Prop)
    (hP : ∀ s, P s → P (converterEffect (unitDone n (unitData n s) (route s (unitData n s))) s)) :
    ∀ (k : Nat) (s t : State), P s → runUnits n route k s = .next t → P t
  | 0, s, t, hs, h => by rw [runUnits] at h; exact (Host.Outcome.next.inj h) ▸ hs
  | k + 1, s, t, hs, h => by
    rcases runUnits_cases n route k s with ⟨-, e⟩ | ⟨-, ⟨u, hu, e⟩ | ⟨-, e⟩⟩
    · rw [e] at h; cases h
    · rw [e] at h; cases h; exact runUnits_keeps P hP k _ _ (hP s hs) hu
    · rw [e] at h; cases h; exact hP s hs

/-- Everything a run of `k` units leaves in a run that is not refused: `col` advanced by the units done, and only memory,
`stage` and the port besides it changed. -/
theorem runUnits_frame {n : Nat} {route : State → List Byte → UnitWrites} :
    ∀ (k : Nat) (s t : State), s.refused = none → runUnits n route k s = .next t →
      ∃ j, j ≤ k ∧ t = { s with
        mem := t.mem, stage := t.stage, work := { s.work with col := s.work.col + BitVec.ofNat 32 (j * n) },
        memPort := t.memPort }
  | 0, s, t, _, h => ⟨0, Nat.le_refl 0, by rw [runUnits] at h; cases h; simp⟩
  | k + 1, s, t, hr, h => by
    have hd : converterEffect (unitDone n (unitData n s) (route s (unitData n s))) s
        = unitDone n (unitData n s) (route s (unitData n s)) s := by simp [converterEffect, hr]
    rcases runUnits_cases n route k s with ⟨-, e⟩ | ⟨-, ⟨u, hu, e⟩ | ⟨-, e⟩⟩
    · rw [e] at h; cases h
    · rw [e] at h; cases h
      rw [hd] at hu
      obtain ⟨j, hj, ht⟩ := runUnits_frame k _ _ (by simpa using hr) hu
      refine ⟨j + 1, Nat.succ_le_succ hj, ?_⟩
      rw [ht]
      have hc : s.work.col + BitVec.ofNat 32 n + BitVec.ofNat 32 (j * n) = s.work.col + BitVec.ofNat 32 ((j + 1) * n) := by
        rw [BitVec.add_assoc, ← BitVec.ofNat_add]; congr 2; ring
      simp [unitDone, hc]
    · rw [e, hd] at h; cases h
      exact ⟨1, Nat.succ_le_succ (Nat.zero_le k), by simp [unitDone]⟩

/-- A run of units that is admitted throughout in a region of states completes. -/
theorem runUnits_completes {n : Nat} {route : State → List Byte → UnitWrites} (P : Nat → State → Prop)
    (hP : ∀ k s, P (k + 1) s → unitAdmitted n (route s (unitData n s)) s = true
      ∧ P k (converterEffect (unitDone n (unitData n s) (route s (unitData n s))) s)) :
    ∀ (k : Nat) (s : State), P k s → ∃ t, runUnits n route k s = .next t ∧ P 0 t
  | 0, s, hs => ⟨s, rfl, hs⟩
  | k + 1, s, hs => by
    obtain ⟨ha, hn⟩ := hP k s hs
    obtain ⟨t, ht, h0⟩ := runUnits_completes P hP k _ hn
    rcases runUnits_cases n route k s with ⟨e, -⟩ | ⟨-, ⟨u, hu, e⟩ | ⟨hno, -⟩⟩
    · rw [ha] at e; cases e
    · rw [ht] at hu; cases hu; exact ⟨t, e, h0⟩
    · exact absurd ht (hno t)

end Sys2Proof.Machine
end

