-- ==== Sys2Proof/Laws/Step.lean ====
section
/-! SUPPORT. Everything a step can do: what is fetched, and the next state of each instruction and host action, once. -/

namespace Sys2Proof.Machine

/-- What a step that answers a next state has done: it has executed the fetched instruction, and the host has learned what it
read; or it has done the fetched host action. In a run that was already refused the state is then free. -/
theorem step_next {s t : State} (h : step s = .next t) :
    (∃ i s' u, fetch s = (.instr i, s') ∧ exec i s' = .next u ∧ t = settle s (hostLearns i u))
    ∨ (∃ a s', fetch s = (.action a, s') ∧ t = settle s (hostStep a s')) := by
  unfold step at h
  split at h
  · next i s' hf =>
    cases he : exec i s' with
    | next u => rw [he] at h; exact Or.inl ⟨i, s', u, hf, he, (Host.Outcome.next.inj h).symm⟩
    | fault r => rw [he] at h; cases h
    | refused r => rw [he] at h; cases h
  · next a s' hf => exact Or.inr ⟨a, s', hf, (Host.Outcome.next.inj h).symm⟩
  · cases h

/-- What a step whose instruction answers a next state does. -/
theorem step_of_exec {s s' u : State} {i : Instr} (hf : fetch s = (.instr i, s')) (he : exec i s' = .next u) :
    step s = .next (settle s (hostLearns i u)) := by
  unfold step; rw [hf]; simp only [he]; rfl

/-- The state a fetch hands on differs from the state it was given in the schedule only. -/
theorem fetch_state {s s' : State} {f : Fetched} (h : fetch s = (f, s')) : s' = { s with schedule := s'.schedule } := by
  unfold fetch at h
  split at h <;> cases h <;> rfl

/-- An instruction that a step executes comes from a register word, from the converter's selector or from the row code that
is driven (or the reserved one). -/
theorem fetch_instr {s s' : State} {i : Instr} (h : fetch s = (.instr i, s')) :
    (∃ w, i = decode (.reg w)) ∨ i = converterInstr s ∨ i = decode (.row (rowOp s)) ∨ i = .rowRsv := by
  unfold fetch at h
  split at h
  · cases h; exact Or.inr (Or.inl rfl)
  · next t rest _ =>
    simp only [Prod.mk.injEq] at h
    obtain ⟨h, -⟩ := h
    cases t with
    | reg w => cases h; exact Or.inl ⟨w, rfl⟩
    | converter => cases h; exact Or.inr (Or.inl rfl)
    | row op =>
      simp only [fetchTurn] at h
      split at h
      · next hop =>
        cases h
        rcases hop with hop | hop
        · exact Or.inr (Or.inr (Or.inl (by rw [hop]; rfl)))
        · subst hop; exact Or.inr (Or.inr (Or.inr rfl))
      · cases h
    | host a => cases h

/-! ### The refused mark and the host's writes -/

theorem hitsRunning_iff (s : State) (x : Addr) : hitsRunning s x = true ↔ HitsRunning s x := by
  unfold hitsRunning HitsRunning
  cases s.conv <;> simp

/-- Everything a host write can do: no byte goes into a running conversion's region, and the bytes are written; or one does,
and the run is refused. -/
theorem hostWrite_cases (a : Addr) (bytes : List Byte) (s : State) :
    let t := { s with
      mem := s.mem.writeBytes a bytes, dirty := if s.build.coherent then s.dirty else ⟨a, bytes.length⟩ :: s.dirty }
    ((∀ k, k < bytes.length → ¬ HitsRunning s (a + BitVec.ofNat 32 k)) ∧ hostWrite a bytes s = t)
    ∨ ((∃ k, k < bytes.length ∧ HitsRunning s (a + BitVec.ofNat 32 k))
      ∧ hostWrite a bytes s = refuseByHost .hostWriteDuringBusy t) := by
  intro t
  have key : ((List.range bytes.length).any fun k => hitsRunning s (a + BitVec.ofNat 32 k)) = true
      ↔ ∃ k, k < bytes.length ∧ HitsRunning s (a + BitVec.ofNat 32 k) := by
    simp only [List.any_eq_true, List.mem_range, hitsRunning_iff]
  by_cases h : ((List.range bytes.length).any fun k => hitsRunning s (a + BitVec.ofNat 32 k)) = true
  · exact .inr ⟨key.mp h, by unfold hostWrite; exact if_pos h⟩
  · exact .inl ⟨fun k hk hh => h (key.mpr ⟨k, hk, hh⟩), by unfold hostWrite; exact if_neg h⟩

/-- The frame start's mark: set when the premises fail or a cache duty is not shown, and kept when it was set. -/
theorem frameStart_refused (s : State) :
    (frameStart s).refused =
      if cacheDutiesShown s (latched s) then
        (if (latched s).premisesHold then s.refused else some (s.refused.getD .overlapOrSize))
      else some ((if (latched s).premisesHold then s.refused else some (s.refused.getD .overlapOrSize)).getD .cacheDutyNotShown) := by
  unfold frameStart
  dsimp only
  split <;> split <;> rfl

/-! ### The host's reads, the branch of a POLL, the end of a run -/

/-- Everything a host read can do: memory's bytes with the races of R88; or, in a refused run or when it meets a stale
region, the run is refused. -/
theorem hostRead_cases (a : Addr) (n : Nat) (s : State) :
    let t := { s with hostData := hostReadBytes s a n, draws := s.draws + 1 }
    (s.refused = none ∧ meetsStale s a n = false ∧ hostRead a n s = t)
    ∨ ((s.refused ≠ none ∨ meetsStale s a n = true) ∧ hostRead a n s = refuseByHost .cacheDutyNotShown t) := by
  unfold hostRead
  cases hr : s.refused <;> cases hm : meetsStale s a n <;> simp

/-- A host read meets nothing stale exactly when the port is coherent or every region still to be invalidated is elsewhere. -/
theorem meetsStale_eq_false_iff (s : State) (a : Addr) (n : Nat) :
    meetsStale s a n = false ↔ s.build.coherent = true ∨ ∀ r, r ∈ s.doneUnread ∨ r ∈ s.stale → r.disjoint ⟨a, n⟩ = true := by
  unfold meetsStale
  cases s.build.coherent <;> simp [or_imp, forall_and]

/-- Byte `k` of what a host read returns is the read of the byte at `a + k`. -/
theorem hostReadBytes_getElem? (s : State) : ∀ (n : Nat) (a : Addr) (k : Nat), k < n →
    (hostReadBytes s a n)[k]? = some (hostReadByte s (a + BitVec.ofNat 32 k))
  | n + 1, a, 0, _ => by simp [hostReadBytes]
  | n + 1, a, k + 1, h => by
    rw [hostReadBytes, List.getElem?_cons_succ, hostReadBytes_getElem? s n _ k (Nat.lt_of_succ_lt_succ h)]
    congr 2
    rw [BitVec.add_assoc, Nat.add_comm k 1, BitVec.ofNat_add]

theorem hostReadBytes_length (s : State) : ∀ (n : Nat) (a : Addr), (hostReadBytes s a n).length = n
  | 0, _ => rfl
  | n + 1, a => by simp [hostReadBytes, hostReadBytes_length s n]

/-- Everything the branch of a POLL can do: end, or put its read before what is still to come. -/
theorem pollAgain_cases (word : BitVec 41) (mask value : Word) (pace : List Nat) (s : State) :
    (s.regRdata &&& mask = value ∧ pollAgain word mask value pace s = s)
    ∨ (s.regRdata &&& mask ≠ value ∧ pollAgain word mask value pace s = { s with
        schedule := List.replicate (pace.headD 1) Turn.converter
          ++ .reg word :: .host (.pollAgain word mask value pace.tail) :: s.schedule }) := by
  unfold pollAgain
  by_cases h : s.regRdata &&& mask = value <;> simp [h]

/-- A run that is not refused has ended exactly when no statement is left and BUSY = 0 (42_frame_iterator.md R189): the
converter then has no step. A refused run has ended (log 29). -/
theorem runEnded_iff (s : State) :
    runEnded s = true ↔ s.refused ≠ none ∨ (s.schedule = [] ∧ s.status.busy = false) := by
  unfold runEnded converterEnabled
  cases s.refused <;> cases s.status.busy <;> simp

/-! ### The geometry check -/

/-- A geometry passes exactly when no check fails (42_frame_iterator.md R170). -/
theorem geomCause_eq_zero_iff (st : Strategy) (s h : Word) :
    geomCause st s h = 0#5 ↔ s ≠ 0#32 ∧ h ≠ 0#32 ∧ s.toNat % 4 = 0 ∧ h.toNat % 2 = 0 ∧ (st = .vector → s.toNat % 32 = 0) := by
  have key : ∀ b0 b1 b2 b3 b4 : Bool,
      (BitVec.ofBool b4 ++ BitVec.ofBool b3 ++ BitVec.ofBool b2 ++ BitVec.ofBool b1 ++ BitVec.ofBool b0 = 0#5)
        ↔ (b0 = false ∧ b1 = false ∧ b2 = false ∧ b3 = false ∧ b4 = false) := by decide
  unfold geomCause
  rw [key]
  cases st <;> simp [Strategy.isVector]

/-- A geometry that passes has a stride that is a positive multiple of the unit size. -/
theorem geomCause_unitBytes {st : Strategy} {s h : Word} (hg : geomCause st s h = 0#5) : s.toNat % st.unitBytes = 0 := by
  obtain ⟨-, -, h4, -, hv⟩ := (geomCause_eq_zero_iff st s h).mp hg
  cases st
  · exact h4
  · exact hv rfl

end Sys2Proof.Machine
end

