-- ==== Sys2Proof/Laws/PerInstr.lean ====
section
/-! SUPPORT. The family TableRow: each instruction's encoding carries the fixed bits of its row of
spec/opcode_table.json (match and mask). -/

namespace Sys2Proof.Laws

/-- The match and the mask of an instruction's row, as spec/opcode_table.json gives them. -/
def TableRow.matchMask : Instr → Nat × Nat
  | .nop _ => (0x10C00000000, 0x1FCFFFFFFFF)
  | .start _ => (0x10C00000001, 0x1FCFFFFFFFF)
  | .clear _ => (0x10C00000002, 0x1FCFFFFFFFF)
  | .ignoredOp _ => (0x10C00000003, 0x1FCFFFFFFFF)
  | .ignoredRsv _ _ => (0x10C00000000, 0x1FC00000000)
  | .wrId _ _ => (0x10000000000, 0x1FC00000000)
  | .rdId _ _ => (0x00000000000, 0x1FC00000000)
  | .wrCaps _ _ => (0x10400000000, 0x1FC00000000)
  | .rdCaps _ _ => (0x00400000000, 0x1FC00000000)
  | .wrCtrl _ _ => (0x10800000000, 0x1FC00000000)
  | .rdCtrl _ _ => (0x00800000000, 0x1FC00000000)
  | .rdCmd _ _ => (0x00C00000000, 0x1FC00000000)
  | .wrStatus _ _ => (0x11000000000, 0x1FC00000000)
  | .rdStatus _ _ => (0x01000000000, 0x1FC00000000)
  | .wrSrcBase _ _ => (0x11400000000, 0x1FC00000000)
  | .rdSrcBase _ _ => (0x01400000000, 0x1FC00000000)
  | .wrLumaBase _ _ => (0x11800000000, 0x1FC00000000)
  | .rdLumaBase _ _ => (0x01800000000, 0x1FC00000000)
  | .wrUBase _ _ => (0x11C00000000, 0x1FC00000000)
  | .rdUBase _ _ => (0x01C00000000, 0x1FC00000000)
  | .wrVBase _ _ => (0x12000000000, 0x1FC00000000)
  | .rdVBase _ _ => (0x02000000000, 0x1FC00000000)
  | .wrStride _ _ => (0x12400000000, 0x1FC00000000)
  | .rdStride _ _ => (0x02400000000, 0x1FC00000000)
  | .wrHeight _ _ => (0x12800000000, 0x1FC00000000)
  | .rdHeight _ _ => (0x02800000000, 0x1FC00000000)
  | .wrSrcPtr _ _ => (0x12C00000000, 0x1FC00000000)
  | .rdSrcPtr _ _ => (0x02C00000000, 0x1FC00000000)
  | .wrLumaPtr _ _ => (0x13000000000, 0x1FC00000000)
  | .rdLumaPtr _ _ => (0x03000000000, 0x1FC00000000)
  | .wrUPtr _ _ => (0x13400000000, 0x1FC00000000)
  | .rdUPtr _ _ => (0x03400000000, 0x1FC00000000)
  | .wrVPtr _ _ => (0x13800000000, 0x1FC00000000)
  | .rdVPtr _ _ => (0x03800000000, 0x1FC00000000)
  | .wrPairCnt _ _ => (0x13C00000000, 0x1FC00000000)
  | .rdPairCnt _ _ => (0x03C00000000, 0x1FC00000000)
  | .wrRsv40 _ _ => (0x14000000000, 0x1C000000000)
  | .rdRsv40 _ _ => (0x04000000000, 0x1C000000000)
  | .wrRsv80 _ _ => (0x18000000000, 0x1C000000000)
  | .rdRsv80 _ _ => (0x08000000000, 0x1C000000000)
  | .wrRsvC0 _ _ => (0x1C000000000, 0x1C000000000)
  | .rdRsvC0 _ _ => (0x0C000000000, 0x1C000000000)
  | .rowIdle => (0x0, 0x3)
  | .rowEven => (0x1, 0x3)
  | .rowOdd => (0x2, 0x3)
  | .rowRsv => (0x3, 0x3)
  | .stepIdle _ _ _ => (0x0, 0x8)
  | .groupEven => (0x8, 0xF)
  | .blockEven => (0x9, 0xF)
  | .groupOdd => (0xA, 0xF)
  | .blockOdd => (0xB, 0xF)
  | .rowAdvanceEven _ => (0xC, 0xE)
  | .rowAdvanceOdd _ => (0xE, 0xE)

/-- The bits of a word under a mask are the row's. -/
def TableRow.carries (e : Encoded) (row : Nat × Nat) : Prop :=
  match e with
  | .reg w => w &&& BitVec.ofNat 41 row.2 = BitVec.ofNat 41 row.1
  | .row op => op &&& BitVec.ofNat 2 row.2 = BitVec.ofNat 2 row.1
  | .step sel => sel &&& BitVec.ofNat 4 row.2 = BitVec.ofNat 4 row.1

/-- The statement of the family: the encoding of a well-formed instruction carries its row's fixed bits. -/
def TableRow.Statement (i : Instr) : Prop := i.wellFormed = true → TableRow.carries (encode i) (TableRow.matchMask i)

/-- Under the mask of the register rows, an F-REG word shows W and OFFSET[7:2] (30_encoding.md R103): two words with the
same W and word index agree there. -/
theorem TableRow.regMask (w : BitVec 1) (idx : BitVec 6) (lo : BitVec 2) (data : Word) :
    fRegWord w (regOffset idx lo) data &&& 0x1FC00000000#41 = fRegWord w (regOffset idx 0#2) 0#32 := by
  refine BitVec.eq_of_getLsbD_eq fun i hi => ?_
  rw [BitVec.getLsbD_and, fRegWord_getLsbD, fRegWord_getLsbD, regOffset_getLsbD, regOffset_getLsbD]
  interval_cases i <;> simp

/-- Under the mask of the command rows, an F-REG word shows all but OFFSET[1:0]. -/
theorem TableRow.cmdMask (w : BitVec 1) (idx : BitVec 6) (lo : BitVec 2) (data : Word) :
    fRegWord w (regOffset idx lo) data &&& 0x1FCFFFFFFFF#41 = fRegWord w (regOffset idx 0#2) data := by
  refine BitVec.eq_of_getLsbD_eq fun i hi => ?_
  rw [BitVec.getLsbD_and, fRegWord_getLsbD, fRegWord_getLsbD, regOffset_getLsbD, regOffset_getLsbD]
  interval_cases i <;> simp

/-- Under the mask of the reserved rows, an F-REG word shows W and OFFSET[7:6]. -/
theorem TableRow.rsvMask (w : BitVec 1) (high : BitVec 2) (low : BitVec 6) (data : Word) :
    fRegWord w (high ++ low) data &&& 0x1C000000000#41 = fRegWord w (high ++ 0#6) 0#32 := by
  refine BitVec.eq_of_getLsbD_eq fun i hi => ?_
  rw [BitVec.getLsbD_and, fRegWord_getLsbD, fRegWord_getLsbD, rsvOffset_getLsbD, rsvOffset_getLsbD]
  interval_cases i <;> simp

theorem TableRow.nop (lo : BitVec 2) : TableRow.Statement (.nop lo) :=
  fun _ => (TableRow.cmdMask _ _ _ _).trans (by simp only [TableRow.matchMask]; decide)
theorem TableRow.start (lo : BitVec 2) : TableRow.Statement (.start lo) :=
  fun _ => (TableRow.cmdMask _ _ _ _).trans (by simp only [TableRow.matchMask]; decide)
theorem TableRow.clear (lo : BitVec 2) : TableRow.Statement (.clear lo) :=
  fun _ => (TableRow.cmdMask _ _ _ _).trans (by simp only [TableRow.matchMask]; decide)
theorem TableRow.ignoredOp (lo : BitVec 2) : TableRow.Statement (.ignoredOp lo) :=
  fun _ => (TableRow.cmdMask _ _ _ _).trans (by simp only [TableRow.matchMask]; decide)
theorem TableRow.ignoredRsv (lo : BitVec 2) (data : Word) : TableRow.Statement (.ignoredRsv lo data) :=
  fun _ => (TableRow.regMask _ _ _ _).trans (by simp only [TableRow.matchMask]; decide)
theorem TableRow.wrId (lo : BitVec 2) (data : Word) : TableRow.Statement (.wrId lo data) :=
  fun _ => (TableRow.regMask _ _ _ _).trans (by simp only [TableRow.matchMask]; decide)
theorem TableRow.rdId (lo : BitVec 2) (data : Word) : TableRow.Statement (.rdId lo data) :=
  fun _ => (TableRow.regMask _ _ _ _).trans (by simp only [TableRow.matchMask]; decide)
theorem TableRow.wrCaps (lo : BitVec 2) (data : Word) : TableRow.Statement (.wrCaps lo data) :=
  fun _ => (TableRow.regMask _ _ _ _).trans (by simp only [TableRow.matchMask]; decide)
theorem TableRow.rdCaps (lo : BitVec 2) (data : Word) : TableRow.Statement (.rdCaps lo data) :=
  fun _ => (TableRow.regMask _ _ _ _).trans (by simp only [TableRow.matchMask]; decide)
theorem TableRow.wrCtrl (lo : BitVec 2) (data : Word) : TableRow.Statement (.wrCtrl lo data) :=
  fun _ => (TableRow.regMask _ _ _ _).trans (by simp only [TableRow.matchMask]; decide)
theorem TableRow.rdCtrl (lo : BitVec 2) (data : Word) : TableRow.Statement (.rdCtrl lo data) :=
  fun _ => (TableRow.regMask _ _ _ _).trans (by simp only [TableRow.matchMask]; decide)
theorem TableRow.rdCmd (lo : BitVec 2) (data : Word) : TableRow.Statement (.rdCmd lo data) :=
  fun _ => (TableRow.regMask _ _ _ _).trans (by simp only [TableRow.matchMask]; decide)
theorem TableRow.wrStatus (lo : BitVec 2) (data : Word) : TableRow.Statement (.wrStatus lo data) :=
  fun _ => (TableRow.regMask _ _ _ _).trans (by simp only [TableRow.matchMask]; decide)
theorem TableRow.rdStatus (lo : BitVec 2) (data : Word) : TableRow.Statement (.rdStatus lo data) :=
  fun _ => (TableRow.regMask _ _ _ _).trans (by simp only [TableRow.matchMask]; decide)
theorem TableRow.wrSrcBase (lo : BitVec 2) (data : Word) : TableRow.Statement (.wrSrcBase lo data) :=
  fun _ => (TableRow.regMask _ _ _ _).trans (by simp only [TableRow.matchMask]; decide)
theorem TableRow.rdSrcBase (lo : BitVec 2) (data : Word) : TableRow.Statement (.rdSrcBase lo data) :=
  fun _ => (TableRow.regMask _ _ _ _).trans (by simp only [TableRow.matchMask]; decide)
theorem TableRow.wrLumaBase (lo : BitVec 2) (data : Word) : TableRow.Statement (.wrLumaBase lo data) :=
  fun _ => (TableRow.regMask _ _ _ _).trans (by simp only [TableRow.matchMask]; decide)
theorem TableRow.rdLumaBase (lo : BitVec 2) (data : Word) : TableRow.Statement (.rdLumaBase lo data) :=
  fun _ => (TableRow.regMask _ _ _ _).trans (by simp only [TableRow.matchMask]; decide)
theorem TableRow.wrUBase (lo : BitVec 2) (data : Word) : TableRow.Statement (.wrUBase lo data) :=
  fun _ => (TableRow.regMask _ _ _ _).trans (by simp only [TableRow.matchMask]; decide)
theorem TableRow.rdUBase (lo : BitVec 2) (data : Word) : TableRow.Statement (.rdUBase lo data) :=
  fun _ => (TableRow.regMask _ _ _ _).trans (by simp only [TableRow.matchMask]; decide)
theorem TableRow.wrVBase (lo : BitVec 2) (data : Word) : TableRow.Statement (.wrVBase lo data) :=
  fun _ => (TableRow.regMask _ _ _ _).trans (by simp only [TableRow.matchMask]; decide)
theorem TableRow.rdVBase (lo : BitVec 2) (data : Word) : TableRow.Statement (.rdVBase lo data) :=
  fun _ => (TableRow.regMask _ _ _ _).trans (by simp only [TableRow.matchMask]; decide)
theorem TableRow.wrStride (lo : BitVec 2) (data : Word) : TableRow.Statement (.wrStride lo data) :=
  fun _ => (TableRow.regMask _ _ _ _).trans (by simp only [TableRow.matchMask]; decide)
theorem TableRow.rdStride (lo : BitVec 2) (data : Word) : TableRow.Statement (.rdStride lo data) :=
  fun _ => (TableRow.regMask _ _ _ _).trans (by simp only [TableRow.matchMask]; decide)
theorem TableRow.wrHeight (lo : BitVec 2) (data : Word) : TableRow.Statement (.wrHeight lo data) :=
  fun _ => (TableRow.regMask _ _ _ _).trans (by simp only [TableRow.matchMask]; decide)
theorem TableRow.rdHeight (lo : BitVec 2) (data : Word) : TableRow.Statement (.rdHeight lo data) :=
  fun _ => (TableRow.regMask _ _ _ _).trans (by simp only [TableRow.matchMask]; decide)
theorem TableRow.wrSrcPtr (lo : BitVec 2) (data : Word) : TableRow.Statement (.wrSrcPtr lo data) :=
  fun _ => (TableRow.regMask _ _ _ _).trans (by simp only [TableRow.matchMask]; decide)
theorem TableRow.rdSrcPtr (lo : BitVec 2) (data : Word) : TableRow.Statement (.rdSrcPtr lo data) :=
  fun _ => (TableRow.regMask _ _ _ _).trans (by simp only [TableRow.matchMask]; decide)
theorem TableRow.wrLumaPtr (lo : BitVec 2) (data : Word) : TableRow.Statement (.wrLumaPtr lo data) :=
  fun _ => (TableRow.regMask _ _ _ _).trans (by simp only [TableRow.matchMask]; decide)
theorem TableRow.rdLumaPtr (lo : BitVec 2) (data : Word) : TableRow.Statement (.rdLumaPtr lo data) :=
  fun _ => (TableRow.regMask _ _ _ _).trans (by simp only [TableRow.matchMask]; decide)
theorem TableRow.wrUPtr (lo : BitVec 2) (data : Word) : TableRow.Statement (.wrUPtr lo data) :=
  fun _ => (TableRow.regMask _ _ _ _).trans (by simp only [TableRow.matchMask]; decide)
theorem TableRow.rdUPtr (lo : BitVec 2) (data : Word) : TableRow.Statement (.rdUPtr lo data) :=
  fun _ => (TableRow.regMask _ _ _ _).trans (by simp only [TableRow.matchMask]; decide)
theorem TableRow.wrVPtr (lo : BitVec 2) (data : Word) : TableRow.Statement (.wrVPtr lo data) :=
  fun _ => (TableRow.regMask _ _ _ _).trans (by simp only [TableRow.matchMask]; decide)
theorem TableRow.rdVPtr (lo : BitVec 2) (data : Word) : TableRow.Statement (.rdVPtr lo data) :=
  fun _ => (TableRow.regMask _ _ _ _).trans (by simp only [TableRow.matchMask]; decide)
theorem TableRow.wrPairCnt (lo : BitVec 2) (data : Word) : TableRow.Statement (.wrPairCnt lo data) :=
  fun _ => (TableRow.regMask _ _ _ _).trans (by simp only [TableRow.matchMask]; decide)
theorem TableRow.rdPairCnt (lo : BitVec 2) (data : Word) : TableRow.Statement (.rdPairCnt lo data) :=
  fun _ => (TableRow.regMask _ _ _ _).trans (by simp only [TableRow.matchMask]; decide)
theorem TableRow.wrRsv40 (low : BitVec 6) (data : Word) : TableRow.Statement (.wrRsv40 low data) :=
  fun _ => (TableRow.rsvMask _ _ _ _).trans (by simp only [TableRow.matchMask]; decide)
theorem TableRow.rdRsv40 (low : BitVec 6) (data : Word) : TableRow.Statement (.rdRsv40 low data) :=
  fun _ => (TableRow.rsvMask _ _ _ _).trans (by simp only [TableRow.matchMask]; decide)
theorem TableRow.wrRsv80 (low : BitVec 6) (data : Word) : TableRow.Statement (.wrRsv80 low data) :=
  fun _ => (TableRow.rsvMask _ _ _ _).trans (by simp only [TableRow.matchMask]; decide)
theorem TableRow.rdRsv80 (low : BitVec 6) (data : Word) : TableRow.Statement (.rdRsv80 low data) :=
  fun _ => (TableRow.rsvMask _ _ _ _).trans (by simp only [TableRow.matchMask]; decide)
theorem TableRow.wrRsvC0 (low : BitVec 6) (data : Word) : TableRow.Statement (.wrRsvC0 low data) :=
  fun _ => (TableRow.rsvMask _ _ _ _).trans (by simp only [TableRow.matchMask]; decide)
theorem TableRow.rdRsvC0 (low : BitVec 6) (data : Word) : TableRow.Statement (.rdRsvC0 low data) :=
  fun _ => (TableRow.rsvMask _ _ _ _).trans (by simp only [TableRow.matchMask]; decide)
theorem TableRow.rowIdle : TableRow.Statement (.rowIdle) :=
  fun _ => rfl
theorem TableRow.rowEven : TableRow.Statement (.rowEven) :=
  fun _ => rfl
theorem TableRow.rowOdd : TableRow.Statement (.rowOdd) :=
  fun _ => rfl
theorem TableRow.rowRsv : TableRow.Statement (.rowRsv) :=
  fun _ => rfl
theorem TableRow.stepIdle (endBit : Bool) (phase : Bool) (vec : Bool) : TableRow.Statement (.stepIdle endBit phase vec) :=
  by cases endBit <;> cases phase <;> cases vec <;> exact fun _ => rfl
theorem TableRow.groupEven : TableRow.Statement (.groupEven) :=
  fun _ => rfl
theorem TableRow.blockEven : TableRow.Statement (.blockEven) :=
  fun _ => rfl
theorem TableRow.groupOdd : TableRow.Statement (.groupOdd) :=
  fun _ => rfl
theorem TableRow.blockOdd : TableRow.Statement (.blockOdd) :=
  fun _ => rfl
theorem TableRow.rowAdvanceEven (vec : Bool) : TableRow.Statement (.rowAdvanceEven vec) :=
  by cases vec <;> exact fun _ => rfl
theorem TableRow.rowAdvanceOdd (vec : Bool) : TableRow.Statement (.rowAdvanceOdd vec) :=
  by cases vec <;> exact fun _ => rfl

end Sys2Proof.Laws
end

