-- ==== Sys2Proof/Tests/Slice0.lean ====
section
/-! SUPPORT. Tests against values written out in spec/ (95_test_vectors.md, 30_encoding.md), and a witness for the
hypotheses of every statement that has any. -/

namespace Sys2Proof.Tests

open Sys2Proof Sys2Proof.Machine

/-! ### Helpers -/

/-- The state of an outcome, or a given state when there is none. -/
def after (o : Host.Outcome State Fault Refusal) (s : State) : State :=
  match o with
  | .next t => t
  | .fault _ => s
  | .refused _ => s

/-- Whether an outcome is a next state. -/
def goesOn : Host.Outcome State Fault Refusal → Bool
  | .next _ => true
  | .fault _ => false
  | .refused _ => false

theorem next_of_goesOn {o : Host.Outcome State Fault Refusal} (d : State) (h : goesOn o = true) : o = .next (after o d) := by
  cases o with
  | next t => rfl
  | fault r => cases h
  | refused r => cases h

/-- The state after `k` steps of the machine. -/
def ran (k : Nat) (s : State) : State := after (Host.Core.run core k s) s

/-- The state after a START. -/
def started (s : State) : State := after (exec (.start 0#2) s) s

/-- The bytes at an address and the next ones. -/
def bytesAt (s : State) (a : Addr) (n : Nat) : List Byte := s.mem.readBytes a n

/-- The reset state on a strategy. -/
def resetOn (st : Strategy) : State := State.resetWith { Build.reset with strategy := st }

/-- A state whose registers hold the bases of L1.1 and a geometry, with source bytes at 0x1000. -/
def configured (st : Strategy) (stride height : Word) (source : List Byte) : State :=
  { resetOn st with
    mem := Memory.writeBytes [] 0x1000#32 source
    cfg := { srcBase := 0x1000#32, lumaBase := 0x2000#32, uBase := 0x3000#32, vBase := 0x3100#32, stride := stride, height := height } }

/-- The minimal frame of L1.1. -/
def minimal : State :=
  configured .portable 8#32 2#32 [100#8, 128#8, 101#8, 64#8, 102#8, 128#8, 103#8, 64#8,
    110#8, 0#8, 111#8, 0#8, 112#8, 0#8, 113#8, 0#8]

/-- The frame of P3, on either strategy. -/
def wide (st : Strategy) : State :=
  configured st 32#32 2#32 ((List.range 32).map (BitVec.ofNat 8) ++ (List.range 32).map fun i => BitVec.ofNat 8 (100 + i))

/-- A state at a unit or row end: pointers, `col`, `s_l` and a phase, BUSY = 1. -/
def busyAt (st : Strategy) (src luma u v col stride : Word) (phase : Bool) : State :=
  { resetOn st with
    status := { Status.reset with busy := true, phase := phase }
    work := { srcPtr := src, lumaPtr := luma, uPtr := u, vPtr := v, pairCnt := 0#32, rowStride := stride, pairsL := 2#32, col := col } }

/-- A state with bytes in its memory. -/
def withBytes (a : Addr) (bytes : List Byte) (s : State) : State := { s with mem := s.mem.writeBytes a bytes }

/-- A state with a turn to take first. -/
def withTurn (t : Turn) (s : State) : State := { s with schedule := t :: s.schedule }

/-- STATUS after an instruction. -/
def statusAfter (i : Instr) (s : State) : Word := (after (exec i s) s).status.word

/-- What an F-REG word reads in a state. -/
def readBy (w : BitVec 41) (s : State) : Word := (after (exec (decode (.reg w)) s) s).regRdata

/-! ### WellFormed -/

/-- IGNORED_RSV without an RSV bit (R101) is no word of the table. -/
theorem test_wellFormed_refuses_rsv_zero : Instr.wellFormed (.ignoredRsv 0#2 3#32) = false := by decide

theorem test_wellFormed_admits_rsv : Instr.wellFormed (.ignoredRsv 0#2 4#32) = true := by decide

/-! ### Decoding: words written out from R101, R103 to R107 -/

theorem test_decode_commands :
    decode (.reg 0b1_00001100_00000000000000000000000000000000#41) = .nop 0#2
    ∧ decode (.reg 0b1_00001100_00000000000000000000000000000001#41) = .start 0#2
    ∧ decode (.reg 0b1_00001101_00000000000000000000000000000010#41) = .clear 1#2
    ∧ decode (.reg 0b1_00001111_00000000000000000000000000000011#41) = .ignoredOp 3#2
    ∧ decode (.reg 0b1_00001100_10000000000000000000000000000001#41) = .ignoredRsv 0#2 0x80000001#32 := by decide

theorem test_decode_control :
    decode (.reg 0b1_00000000_00000000000000000000000000000111#41) = .wrId 0#2 7#32
    ∧ decode (.reg 0b0_00000000_00000000000000000000000000000000#41) = .rdId 0#2 0#32
    ∧ decode (.reg 0b1_00000110_00000000000000000000000000000111#41) = .wrCaps 2#2 7#32
    ∧ decode (.reg 0x00400000000#41) = .rdCaps 0#2 0#32
    ∧ decode (.reg 0x108FFFFFFFF#41) = .wrCtrl 0#2 0xFFFFFFFF#32
    ∧ decode (.reg 0x00800000000#41) = .rdCtrl 0#2 0#32
    ∧ decode (.reg 0x00C00000000#41) = .rdCmd 0#2 0#32
    ∧ decode (.reg 0x110FFFFFFFF#41) = .wrStatus 0#2 0xFFFFFFFF#32
    ∧ decode (.reg 0x01300000000#41) = .rdStatus 3#2 0#32 := by decide

theorem test_decode_configuration :
    decode (.reg 0x11400001000#41) = .wrSrcBase 0#2 0x1000#32 ∧ decode (.reg 0x01400000000#41) = .rdSrcBase 0#2 0#32
    ∧ decode (.reg 0x11800002000#41) = .wrLumaBase 0#2 0x2000#32 ∧ decode (.reg 0x01800000000#41) = .rdLumaBase 0#2 0#32
    ∧ decode (.reg 0x11C00003000#41) = .wrUBase 0#2 0x3000#32 ∧ decode (.reg 0x01C00000000#41) = .rdUBase 0#2 0#32
    ∧ decode (.reg 0x12000003100#41) = .wrVBase 0#2 0x3100#32 ∧ decode (.reg 0x02000000000#41) = .rdVBase 0#2 0#32
    ∧ decode (.reg 0b1_00100100_00000000000000000000000000001000#41) = .wrStride 0#2 8#32
    ∧ decode (.reg 0x02400000000#41) = .rdStride 0#2 0#32
    ∧ decode (.reg 0x12800000002#41) = .wrHeight 0#2 2#32 ∧ decode (.reg 0x02800000000#41) = .rdHeight 0#2 0#32 := by decide

theorem test_decode_working :
    decode (.reg 0x12C00001234#41) = .wrSrcPtr 0#2 0x1234#32 ∧ decode (.reg 0x02C00000000#41) = .rdSrcPtr 0#2 0#32
    ∧ decode (.reg 0x13000000005#41) = .wrLumaPtr 0#2 5#32 ∧ decode (.reg 0x03000000000#41) = .rdLumaPtr 0#2 0#32
    ∧ decode (.reg 0x13400000005#41) = .wrUPtr 0#2 5#32 ∧ decode (.reg 0x03400000000#41) = .rdUPtr 0#2 0#32
    ∧ decode (.reg 0x13800000005#41) = .wrVPtr 0#2 5#32 ∧ decode (.reg 0x03800000000#41) = .rdVPtr 0#2 0#32
    ∧ decode (.reg 0x13C00000005#41) = .wrPairCnt 0#2 5#32 ∧ decode (.reg 0x03C00000000#41) = .rdPairCnt 0#2 0#32 := by decide

theorem test_decode_reserved_offsets :
    decode (.reg 0x14000000005#41) = .wrRsv40 0#6 5#32 ∧ decode (.reg 0x07F00000000#41) = .rdRsv40 0x3F#6 0#32
    ∧ decode (.reg 0x18000000005#41) = .wrRsv80 0#6 5#32 ∧ decode (.reg 0x0BF00000000#41) = .rdRsv80 0x3F#6 0#32
    ∧ decode (.reg 0b1_11000000_00000000000000000000000000000101#41) = .wrRsvC0 0#6 5#32
    ∧ decode (.reg 0x0FC00000000#41) = .rdRsvC0 0x3C#6 0#32 := by decide

theorem test_decode_rows :
    decode (.row 0b00#2) = .rowIdle ∧ decode (.row 0b01#2) = .rowEven ∧ decode (.row 0b10#2) = .rowOdd
    ∧ decode (.row 0b11#2) = .rowRsv := by decide

theorem test_decode_steps :
    decode (.step 0b0110#4) = .stepIdle true true false ∧ decode (.step 0b1000#4) = .groupEven
    ∧ decode (.step 0b1001#4) = .blockEven ∧ decode (.step 0b1010#4) = .groupOdd ∧ decode (.step 0b1011#4) = .blockOdd
    ∧ decode (.step 0b1101#4) = .rowAdvanceEven true ∧ decode (.step 0b1110#4) = .rowAdvanceOdd false := by decide

/-- The bytes of `WR STRIDE, 8` (R111), least significant first. -/
theorem test_decode_bytes : decodeBytes .fReg [0x08#8, 0#8, 0#8, 0#8, 0x24#8, 0x01#8] = .ok (.wrStride 0#2 8#32) := by decide

theorem test_decode_bytes_rejects :
    decodeBytes .fReg [0x08#8] = .error .wrongLength
    ∧ decodeBytes .fReg [0#8, 0#8, 0#8, 0#8, 0#8, 0x02#8] = .error .strayBits
    ∧ decodeBytes .fRow [0x04#8] = .error .strayBits ∧ decodeBytes .fRow [] = .error .wrongLength
    ∧ decodeBytes .fStep [0x10#8] = .error .strayBits ∧ decodeBytes .fStep [] = .error .wrongLength := by decide

theorem test_decode_table_word :
    decodeTableWord 48 0x10C00000001 = some (.start 0#2) ∧ decodeTableWord 8 2 = some .rowOdd
    ∧ decodeTableWord 8 0xB = some .blockOdd ∧ decodeTableWord 8 16 = none ∧ decodeTableWord 16 0 = none := by decide

/-- A word placed for the next step is the one it runs: START straight after reset (L2.10). -/
theorem test_withFetchWord_start :
    (after (step (State.reset.withFetchWord 48 0x10C00000001)) State.reset).status.word = 0x00010304#32 := by decide

theorem test_withFetchWord_groupEven :
    (after (step (State.reset.withFetchWord 8 8)) State.reset).work.col = 4#32 := by decide

/-! ### One step each: the vectors of L2 -/

/-- L2.7. -/
theorem test_reads :
    readBy 0x00000000000#41 minimal = 0x59550420#32 ∧ readBy 0x00400000000#41 minimal = 0x00200400#32
    ∧ readBy 0x00400000000#41 (wide .vector) = 0x00202001#32 ∧ readBy 0x00C00000000#41 minimal = 0#32
    ∧ readBy 0x0FC00000000#41 minimal = 0#32 ∧ readBy 0x01300000000#41 (ran 6 (started minimal)) = 0x2#32 := by decide

/-- L2.7: writes that are stored, and writes that are not. -/
theorem test_writes :
    readBy 0x00800000000#41 (after (exec (.wrCtrl 0#2 0xFFFFFFFF#32) minimal) minimal) = 1#32
    ∧ readBy 0x02400000000#41 (after (exec (.wrStride 0#2 0xFFFFFFFF#32) minimal) minimal) = 0xFFFFFFFF#32
    ∧ readBy 0x01000000000#41 (after (exec (.wrStatus 0#2 0xFFFFFFFF#32) minimal) minimal) = 0#32
    ∧ readBy 0x02C00000000#41 (after (exec (.wrSrcPtr 0#2 0x1234#32) minimal) minimal) = 0#32
    ∧ readBy 0x04000000000#41 (after (exec (.wrRsv40 0#6 5#32) minimal) minimal) = 0#32 := by decide

/-- L2.7: a write of STRIDE while BUSY leaves `s_l`. -/
theorem test_stride_while_busy :
    (after (exec (.wrStride 0#2 16#32) (started minimal)) minimal).work.rowStride = 8#32 := by decide

/-- L2.8: the commands, idle and busy. -/
theorem test_commands :
    statusAfter (.nop 0#2) (started minimal) = 0x1#32 ∧ statusAfter (.start 0#2) minimal = 0x1#32
    ∧ statusAfter (.start 0#2) (started minimal) = 0x9#32 ∧ statusAfter (.start 0#2) (ran 3 (started minimal)) = 0x19#32
    ∧ statusAfter (.clear 0#2) (started minimal) = 0x9#32 ∧ statusAfter (.ignoredOp 0#2) minimal = 0x8#32
    ∧ statusAfter (.ignoredRsv 0#2 0x80000001#32) (ran 6 (started minimal)) = 0xA#32
    ∧ statusAfter (.clear 0#2) (ran 6 (started minimal)) = 0#32
    ∧ statusAfter (.start 0#2) (configured .portable 6#32 3#32 []) = 0x00010C04#32 := by decide

/-- L2.5: the geometry check. -/
theorem test_geometry :
    geomCause .portable 0#32 0#32 = 0b00011#5 ∧ geomCause .vector 8#32 0#32 = 0b10010#5
    ∧ geomCause .portable 6#32 3#32 = 0b01100#5 ∧ geomCause .vector 6#32 3#32 = 0b11100#5
    ∧ geomCause .portable 4#32 2#32 = 0#5 ∧ geomCause .vector 36#32 2#32 = 0b10000#5 ∧ geomCause .vector 32#32 2#32 = 0#5
    ∧ geomCause .vector 0xFFFFFFFF#32 0xFFFFFFFF#32 = 0b11100#5 := by decide

/-- L2.5: a frame whose region exceeds the space starts, and the run is refused. -/
theorem test_oversized_frame_refused :
    (started (configured .portable 0xFFFFFFFC#32 2#32 [])).refused = some .overlapOrSize
    ∧ (started (configured .portable 0xFFFFFFFC#32 2#32 [])).status.word = 1#32 := by decide

/-- L2.1, its last row: addresses modulo 2^32. -/
def groupAt : State :=
  withBytes 0x7F8#32 [1#8, 2#8, 3#8, 4#8]
    (busyAt .portable 0xFFFFFFFC#32 0x100#32 0xFFFFFF00#32 0x200#32 2044#32 4096#32 false)

theorem test_groupEven :
    bytesAt (ran 1 groupAt) 0x4FE#32 2 = [1#8, 3#8] ∧ bytesAt (ran 1 groupAt) 0xFF#32 1 = [2#8]
    ∧ bytesAt (ran 1 groupAt) 0x3FF#32 1 = [4#8] ∧ (ran 1 groupAt).work.col = 2048#32 := by decide

/-- L2.1: a group that wraps. -/
theorem test_groupEven_wraps :
    let t := ran 1 (withBytes 0xFFFFFFFE#32 [9#8, 8#8, 7#8, 6#8]
      (busyAt .portable 0xFFFFFFFE#32 0x7FFFFFFF#32 0x3000#32 0x3100#32 0#32 8#32 false))
    bytesAt t 0x7FFFFFFF#32 2 = [9#8, 7#8] ∧ bytesAt t 0x3000#32 1 = [8#8] ∧ bytesAt t 0x3100#32 1 = [6#8] := by decide

/-- L2.2, first row. -/
theorem test_blockEven :
    let t := ran 1 (started (wide .vector))
    bytesAt t 0x2000#32 4 = [0#8, 2#8, 4#8, 6#8] ∧ bytesAt t 0x200E#32 2 = [28#8, 30#8]
    ∧ bytesAt t 0x3000#32 8 = [1#8, 5#8, 9#8, 13#8, 17#8, 21#8, 25#8, 29#8]
    ∧ bytesAt t 0x3100#32 8 = [3#8, 7#8, 11#8, 15#8, 19#8, 23#8, 27#8, 31#8] ∧ t.work.col = 32#32 := by decide +kernel

/-- L2.3, second row. -/
theorem test_groupOdd :
    let t := ran 1 (withBytes 0x1004#32 [112#8, 77#8, 113#8, 99#8]
      (busyAt .portable 0x1000#32 0x2004#32 0x3000#32 0x3100#32 4#32 8#32 true))
    bytesAt t 0x2006#32 2 = [112#8, 113#8] ∧ bytesAt t 0x3001#32 1 = [0#8] ∧ bytesAt t 0x3101#32 1 = [0#8]
    ∧ t.work.col = 8#32 := by decide

/-- L2.3, fourth row. -/
theorem test_blockOdd :
    let t := ran 3 (started (wide .vector))
    bytesAt t 0x2010#32 3 = [100#8, 102#8, 104#8] ∧ bytesAt t 0x201F#32 1 = [130#8] ∧ t.work.col = 32#32 := by decide +kernel

/-- R132 on the first row of L1.1. -/
theorem test_rowEven :
    let t := after (exec .rowEven (started minimal)) minimal
    bytesAt t 0x2000#32 4 = [100#8, 101#8, 102#8, 103#8] ∧ bytesAt t 0x3000#32 2 = [128#8, 128#8]
    ∧ bytesAt t 0x3100#32 2 = [64#8, 64#8] ∧ rowDone t = true := by decide

/-- R150 on the second row of L1.1. -/
theorem test_rowOdd :
    let t := after (exec .rowOdd (ran 3 (started minimal))) minimal
    bytesAt t 0x2004#32 4 = [110#8, 111#8, 112#8, 113#8] ∧ rowDone t = true := by decide

/-- L2.4, first and fourth rows. -/
theorem test_rowAdvanceEven :
    let t := after (exec (.rowAdvanceEven false) (busyAt .portable 0x1000#32 0x2000#32 0x3000#32 0x3100#32 8#32 8#32 false)) minimal
    let w := after (exec (.rowAdvanceEven false)
      (busyAt .portable 0xFFFFFFF0#32 0xFFFFFFFC#32 0xFFFFFFFE#32 0x10#32 16#32 16#32 false)) minimal
    t.work.srcPtr = 0x1008#32 ∧ t.work.lumaPtr = 0x2004#32 ∧ t.work.uPtr = 0x3002#32 ∧ t.work.vPtr = 0x3102#32
    ∧ t.work.col = 0#32 ∧ t.status.phase = true ∧ w.work.srcPtr = 0#32 ∧ w.work.lumaPtr = 4#32 ∧ w.work.uPtr = 2#32
    ∧ w.work.vPtr = 0x14#32 := by decide

/-- L2.4, second row; and completion (L1.1). -/
theorem test_rowAdvanceOdd :
    let t := after (exec (.rowAdvanceOdd false) (busyAt .portable 0x1008#32 0x2004#32 0x3002#32 0x3102#32 8#32 8#32 true)) minimal
    t.work.srcPtr = 0x1010#32 ∧ t.work.lumaPtr = 0x2008#32 ∧ t.work.uPtr = 0x3002#32 ∧ t.work.pairCnt = 1#32
    ∧ t.status.word = 1#32 ∧ (ran 6 (started minimal)).status.word = 2#32
    ∧ (ran 6 (started minimal)).work.srcPtr = 0x1010#32 := by decide

/-- Idle codes and steps change nothing (R106, R179). -/
theorem test_idle_steps :
    after (exec .rowIdle minimal) State.reset = minimal ∧ after (exec .rowRsv minimal) State.reset = minimal
    ∧ after (exec (.stepIdle false false false) minimal) State.reset = minimal := by decide

/-- L2.9: `irq` at completion, kept by a read, dropped by CLEAR. -/
theorem test_irq :
    let t := ran 6 (started { minimal with irqEn := true })
    irq t = true ∧ irq (after (exec (.rdStatus 0#2 0#32) t) minimal) = true
    ∧ irq (after (exec (.clear 0#2) t) minimal) = false := by decide

/-- L2.10: reset after two units keeps the bytes written and clears the registers. -/
theorem test_reset_mid_frame :
    let t := hostStep .reset (ran 2 (started minimal))
    bytesAt t 0x2000#32 4 = [100#8, 101#8, 102#8, 103#8] ∧ bytesAt t 0x2004#32 1 = [0#8] ∧ t.status.word = 0#32
    ∧ t.work = WorkRegs.reset ∧ t.cfg = ConfigRegs.reset := by decide

/-- 60_exceptions.md R237 and 20_memory.md R93: the host's forbidden actions mark the run. -/
theorem test_refusals :
    (hostStep (.memWrite 0x1000#32 [1#8]) (started minimal)).refused = some .hostWriteDuringBusy
    ∧ (hostStep (.memWrite 0x5000#32 [1#8]) (started minimal)).refused = none
    ∧ (hostStep (.memWrite 0x1000#32 [1#8]) minimal).refused = none := by decide

/-- The minimal frame where the port is not coherent. -/
def incoherent : State := { minimal with build := { minimal.build with coherent := false } }

/-- Its frame complete, and the host has read DONE = 1. -/
def incoherentDone : State := ran 1 (withTurn (turnRd 0x04#6) (ran 6 (started incoherent)))

/-- A second frame elsewhere, in progress after the first. -/
def secondFrame : State :=
  started { incoherentDone with cfg := { incoherentDone.cfg with lumaBase := 0x4000#32, uBase := 0x5000#32, vBase := 0x5100#32 } }

/-- 20_memory.md R93 (c): with COHERENT = 0, the outputs of the frame that is over, read before they are invalidated, refuse
the run, idle and while a second frame runs; invalidated while BUSY, they do not. -/
theorem test_duty_c :
    (hostStep (.memRead 0x2000#32 4) incoherentDone).refused = some .cacheDutyNotShown
    ∧ secondFrame.status.busy = true ∧ secondFrame.refused = none
    ∧ (hostStep (.memRead 0x2000#32 4) secondFrame).refused = some .cacheDutyNotShown
    ∧ (let t := hostStep (.memRead 0x2000#32 4) (hostStep (.cacheInvalidate 0x2000#32 8) secondFrame);
       t.refused = none ∧ t.hostData = [100#8, 101#8, 102#8, 103#8]) := by decide +kernel

/-- R93 (c): an invalidation before the host has read DONE = 1 does not count; one byte by byte after it does. -/
theorem test_duty_c_order :
    (let s := hostStep (.cacheInvalidate 0x2000#32 8) (ran 6 (started incoherent));
     (hostStep (.memRead 0x2000#32 2) s).refused = some .cacheDutyNotShown
     ∧ (hostStep (.memRead 0x2000#32 2) (ran 1 (withTurn (turnRd 0x04#6) s))).refused = some .cacheDutyNotShown)
    ∧ (let s := hostStep (.cacheInvalidate 0x2001#32 1) (hostStep (.cacheInvalidate 0x2000#32 1) incoherentDone);
       (hostStep (.memRead 0x2000#32 2) s).hostData = [100#8, 101#8]
       ∧ (hostStep (.memRead 0x2000#32 3) s).refused = some .cacheDutyNotShown) := by decide +kernel

/-- 20_memory.md R93 (a), (b): a START over bytes the host wrote and did not clean refuses the run; after the clean it does
not. -/
theorem test_duty_a :
    let s := hostStep (.memWrite 0x1000#32 [1#8, 2#8]) incoherent
    (started s).refused = some .cacheDutyNotShown
    ∧ (started (hostStep (.cacheClean 0x1000#32 16) s)).refused = none
    ∧ (started (hostStep (.cacheClean 0x1000#32 1) s)).refused = some .cacheDutyNotShown
    ∧ (started (hostStep (.cacheClean 0x1000#32 1) (hostStep (.cacheClean 0x1001#32 1) s))).refused = none := by decide

/-- 30_encoding.md R110: WAIT after a START reads STATUS until BUSY = 0, here at once, after five converter turns, and after
one more. -/
theorem test_wait :
    let t := ran 14 { started minimal with schedule := pseudoWait [5] }
    t.schedule = [] ∧ t.regRdata = 2#32 ∧ t.status.busy = false
    ∧ (ran 2 { minimal with schedule := pseudoWait [] }).schedule = [] := by decide +kernel

/-- 30_encoding.md R109: a reset between the read of a WAIT and its branch leaves the value read, here BUSY = 1, so STATUS is
read again. -/
theorem test_reset_inside_wait :
    let s := ran 3 { started minimal with schedule := (pseudoWait []).take 1 ++ [.host .reset] ++ (pseudoWait []).drop 1 }
    s.regRdata = 1#32 ∧ s.status.busy = false ∧ s.schedule = .converter :: pseudoWait [] := by decide +kernel

/-- 42_frame_iterator.md R189: what is observed of the run of the minimal frame (L1.1), and nothing before its end. -/
theorem test_observed :
    observed (started minimal) = none
    ∧ (observed (ran 6 (started minimal))).map (fun o => (o.status, o.srcPtr, o.pairCnt, o.refused))
      = some (2#32, 0x1010#32, 1#32, false)
    ∧ (observed (refuse .overlapOrSize (started minimal))).map (fun o => (o.id, o.refused)) = some (0x59550420#32, true) := by
  decide +kernel

/-- 20_memory.md R80: a read that the launch memory does not admit leaves the converter stuck. -/
def starved : State := { started minimal with build := { minimal.build with launch := [] } }

theorem test_stuck : step starved = .fault .notAdmitted := by rfl

/-- The same in the middle of a row: the first group is done, and the row ends there. -/
theorem test_row_stuck_midway :
    let s := started minimal
    let t := after (exec .rowEven { s with build := { s.build with launch :=
      [⟨⟨0x1000#32, 4⟩, true, false⟩, ⟨⟨0x2000#32, 0x2000⟩, false, true⟩] } }) s
    t.work.col = 4#32 ∧ bytesAt t 0x2000#32 3 = [100#8, 101#8, 0#8] ∧ step t = .fault .notAdmitted :=
  ⟨by decide, by decide, by rfl⟩

/-! ### Witnesses: states and operands that meet the hypotheses of each statement that has any -/

/-- A frame in progress, before its last step. -/
def lastStep : State := ran 5 (started minimal)

/-- What the minimal frame latches. -/
def frame : Conversion := latched minimal

/-- The invariant of a frame from a form that Lean can evaluate. -/
theorem frameInvariant_of {c : Conversion} {s : State} (hc : s.conv = some c) (hp : c.premisesHold = true)
    (h0 : ∀ i, i < c.height.toNat * c.stride.toNat → s.byteAt (c.srcBase + BitVec.ofNat 32 i) = c.sourceByte i)
    (h1 : ∀ r, r < c.height.toNat → ∀ i, i < c.stride.toNat / 2 →
      let a := c.lumaBase + BitVec.ofNat 32 (r * (c.stride.toNat / 2) + i)
      if r < rowIndex s ∨ (r = rowIndex s ∧ 2 * i < s.work.col.toNat)
      then s.byteAt a = c.sourceByte (r * c.stride.toNat + 2 * i) else s.byteAt a = Memory.read c.startMem a.toNat)
    (h2 : ∀ k, k < c.height.toNat / 2 → ∀ j, j < c.stride.toNat / 4 →
      let a := c.uBase + BitVec.ofNat 32 (k * (c.stride.toNat / 4) + j)
      let b := c.vBase + BitVec.ofNat 32 (k * (c.stride.toNat / 4) + j)
      if 2 * k < rowIndex s ∨ (2 * k = rowIndex s ∧ 4 * j < s.work.col.toNat)
      then s.byteAt a = c.sourceByte (2 * k * c.stride.toNat + 4 * j + 1)
        ∧ s.byteAt b = c.sourceByte (2 * k * c.stride.toNat + 4 * j + 3)
      else s.byteAt a = Memory.read c.startMem a.toNat ∧ s.byteAt b = Memory.read c.startMem b.toNat) :
    FrameInvariant s := by
  intro _ _
  rw [hc]
  refine ⟨hp, h0, fun r i hr hi => ?_, fun k j hk hj => ?_, fun k j hk hj => ?_⟩
  · have h := h1 r hr i hi
    dsimp only at h
    exact ⟨fun hq => by unfold processed at hq; rwa [if_pos hq] at h, fun hq => by unfold processed at hq; rwa [if_neg hq] at h⟩
  · have h := h2 k hk j hj
    dsimp only at h
    exact ⟨fun hq => by unfold processed at hq; rw [if_pos hq] at h; exact h.1,
      fun hq => by unfold processed at hq; rw [if_neg hq] at h; exact h.1⟩
  · have h := h2 k hk j hj
    dsimp only at h
    exact ⟨fun hq => by unfold processed at hq; rw [if_pos hq] at h; exact h.2,
      fun hq => by unfold processed at hq; rw [if_neg hq] at h; exact h.2⟩

/-- The pointer invariant from a form that Lean can evaluate. -/
theorem pointerInvariant_of {c : Conversion} {s : State} (hc : s.conv = some c)
    (h : s.work.rowStride = c.stride ∧ 2 * s.work.pairsL.toNat = c.height.toNat
      ∧ s.work.srcPtr = c.srcBase + BitVec.ofNat 32 (rowIndex s * c.stride.toNat)
      ∧ s.work.lumaPtr = c.lumaBase + BitVec.ofNat 32 (rowIndex s * (c.stride.toNat / 2))
      ∧ s.work.uPtr = c.uBase + BitVec.ofNat 32 ((rowIndex s + 1) / 2 * (c.stride.toNat / 4))
      ∧ s.work.vPtr = c.vBase + BitVec.ofNat 32 ((rowIndex s + 1) / 2 * (c.stride.toNat / 4))
      ∧ (s.status.done = true → s.work.pairCnt = s.work.pairsL)) : PointerInvariant s := by
  intro _
  rw [hc]
  exact h

/-- Every byte is admitted for both directions by the reset build's launch memory. -/
theorem launch_admits (w : Bool) (a : Addr) : Build.reset.admitsByte w a = true := by
  have h : Region.contains ⟨0#32, addrSpace⟩ a = true := decide_eq_true (a - 0#32).isLt
  cases w <;> simp only [Build.admitsByte, Build.reset, List.any_cons, h, Bool.true_and, ite_true, ite_false, Bool.true_or,
    Bool.false_eq_true]

theorem lastStep_status : StatusInvariant lastStep := by decide +kernel

theorem lastStep_pointers : PointerInvariant lastStep :=
  pointerInvariant_of (c := frame) (by decide +kernel) (by decide +kernel)

/-- For FrameProgressKept: the frame in progress has the invariants, and its next step exists. -/
theorem witness_frameProgressKept : FrameReady lastStep ∧ step lastStep = .next (ran 6 (started minimal)) :=
  ⟨⟨lastStep_status, lastStep_pointers,
    frameInvariant_of (c := frame) (by decide +kernel) (by decide +kernel) (by decide +kernel) (by decide +kernel)
      (by decide +kernel)⟩, by rfl⟩

/-- For CompletedFrameIsConverted. -/
theorem witness_completedFrameIsConverted :
    FrameReady lastStep ∧ step lastStep = .next (ran 6 (started minimal)) ∧ lastStep.status.busy = true
    ∧ (ran 6 (started minimal)).status.done = true ∧ (ran 6 (started minimal)).refused = none :=
  ⟨witness_frameProgressKept.1, witness_frameProgressKept.2, by decide +kernel, by decide +kernel, by decide +kernel⟩

/-- For StatusInvariantKept, PointerValuesKept and PositionAlwaysAdvances. -/
theorem witness_pointerValuesKept :
    lastStep.refused = none ∧ StatusInvariant lastStep ∧ PointerInvariant lastStep ∧ lastStep.status.busy = true
    ∧ step lastStep = .next (ran 6 (started minimal)) ∧ exec (converterInstr lastStep) lastStep = .next (ran 6 (started minimal)) :=
  ⟨by decide +kernel, lastStep_status, lastStep_pointers, by decide +kernel, by rfl, by rfl⟩

/-- For Determinate in StatusInvariantKept and its like: the step of a run that is not refused, and the START that refuses. -/
theorem witness_determinate :
    (ran 1 lastStep).refused = none
    ∧ (let s := withTurn (.reg 0x10C00000001#41) (configured .portable 0xFFFFFFFC#32 2#32 [])
       s.refused = none ∧ StatusInvariant s ∧ goesOn (step s) = true ∧ (after (step s) s).refused = some .overlapOrSize)
    ∧ fetch (withTurn (.reg 0x10C00000001#41) (configured .portable 0xFFFFFFFC#32 2#32 []))
      = (.instr (.start 0#2), configured .portable 0xFFFFFFFC#32 2#32 []) := by decide +kernel

/-- For ConverterAccessesOnlyItsRegions, at the frame's first unit. -/
theorem witness_converterAccessesOnlyItsRegions :
    let s := started minimal
    s.refused = none ∧ StatusInvariant s ∧ PointerInvariant s ∧ s.status.busy = true ∧ s.conv = some frame
    ∧ goesOn (exec (converterInstr s) s) = true :=
  ⟨by decide +kernel, by decide +kernel, pointerInvariant_of (c := frame) (by decide +kernel) (by decide +kernel), by decide +kernel,
    by decide +kernel, by decide +kernel⟩

/-- Every conversion is admitted where the launch memory is the reset build's. -/
theorem admitted_of {b : Build} {c : Conversion} (h : b.launch = Build.reset.launch) : ConversionAdmitted b c := by
  intro a
  have e : ∀ w, b.admitsByte w a = Build.reset.admitsByte w a := fun w => by simp [Build.admitsByte, h]
  exact ⟨fun _ => by rw [e, launch_admits], fun _ => by rw [e, launch_admits]⟩

/-- For FrameCompletesInStatedSteps, with COHERENT = 1 and with COHERENT = 0 and a dirty line elsewhere. -/
theorem witness_frameCompletesInStatedSteps :
    (ReadyToConvert minimal ∧ exec (.start 0#2) minimal = .next (started minimal))
    ∧ ReadyToConvert { incoherent with dirty := [⟨0x1010#32, 16⟩] } :=
  ⟨⟨⟨by decide, by decide, by decide, by decide, by decide, by decide, admitted_of rfl⟩, by rfl⟩,
    ⟨by decide, by decide, by decide, by decide, by decide, by decide, admitted_of rfl⟩⟩

/-- The frame of P3 with its build's strategy replaced, as StrategiesAgree replaces it. -/
def wideOn (st : Strategy) : State := { wide .portable with build := { (wide .portable).build with strategy := st } }

theorem witness_strategiesAgree :
    ReadyToConvert (wideOn .portable) ∧ ReadyToConvert (wideOn .vector)
    ∧ exec (.start 0#2) (wideOn .portable) = .next (started (wideOn .portable))
    ∧ exec (.start 0#2) (wideOn .vector) = .next (started (wideOn .vector)) :=
  ⟨⟨by decide, by decide, by decide, by decide, by decide, by decide, admitted_of rfl⟩,
    ⟨by decide, by decide, by decide, by decide, by decide, by decide, admitted_of rfl⟩, by rfl, by rfl⟩

/-- For DecodeOfEncode. -/
theorem witness_decodeOfEncode : Instr.wellFormed (.ignoredRsv 0#2 5#32) = true ∧ Instr.wellFormed .groupEven = true := by decide

/-- For CommandDecodeOrder: a word for each clause. -/
theorem witness_commandDecodeOrder :
    (4#32 : Word).extractLsb' 2 30 ≠ 0#30 ∧ (0x80000001#32 : Word).extractLsb' 2 30 ≠ 0#30
    ∧ (0#32 : Word).extractLsb' 2 30 = 0#30 ∧ (0#32 : Word).extractLsb' 0 2 = 0b00#2
    ∧ (1#32 : Word).extractLsb' 2 30 = 0#30 ∧ (1#32 : Word).extractLsb' 0 2 = 0b01#2
    ∧ (2#32 : Word).extractLsb' 2 30 = 0#30 ∧ (2#32 : Word).extractLsb' 0 2 = 0b10#2
    ∧ (3#32 : Word).extractLsb' 2 30 = 0#30 ∧ (3#32 : Word).extractLsb' 0 2 = 0b11#2 := by decide

/-- For ReservedOffsetsReadZero, at both ends. -/
theorem witness_reservedOffsets : 0x40 ≤ (0x40#8 : BitVec 8).toNat ∧ 0x40 ≤ (0xFF#8 : BitVec 8).toNat := by decide

/-- For StepSelectorTable: a state for each clause, in order. -/
theorem witness_stepSelectorTable :
    minimal.status.busy = false
    ∧ (let s := started minimal; s.status.busy = true ∧ s.work.col ≠ s.work.rowStride ∧ s.status.phase = false ∧ s.build.strategy = .portable)
    ∧ (let s := started (wide .vector); s.status.busy = true ∧ s.work.col ≠ s.work.rowStride ∧ s.status.phase = false ∧ s.build.strategy = .vector)
    ∧ (let s := ran 3 (started minimal); s.status.busy = true ∧ s.work.col ≠ s.work.rowStride ∧ s.status.phase = true ∧ s.build.strategy = .portable)
    ∧ (let s := ran 2 (started (wide .vector)); s.status.busy = true ∧ s.work.col ≠ s.work.rowStride ∧ s.status.phase = true ∧ s.build.strategy = .vector)
    ∧ (let s := ran 2 (started minimal); s.status.busy = true ∧ s.work.col = s.work.rowStride ∧ s.status.phase = false)
    ∧ (let s := ran 5 (started minimal); s.status.busy = true ∧ s.work.col = s.work.rowStride ∧ s.status.phase = true) := by
  decide +kernel

/-- For RowCodeDriven. -/
theorem witness_rowCodeDriven :
    (started minimal).status.busy = true ∧ (started minimal).status.phase = false ∧ lastStep.status.busy = true
    ∧ lastStep.status.phase = true ∧ minimal.status.busy = false := by decide +kernel

/-- For ReadsReturnRegisters. -/
theorem witness_readsReturnRegisters :
    minimal.build.strategy = .portable ∧ (wide .vector).build.strategy = .vector := by decide

/-- For OnlyTheseChangeEachState: next states that change each part. -/
theorem witness_onlyTheseChangeEachState :
    (after (exec (.start 0#2) minimal) minimal).status ≠ minimal.status
    ∧ (after (exec (.start 0#2) minimal) minimal).work ≠ minimal.work ∧ (after (exec (.start 0#2) minimal) minimal).conv ≠ minimal.conv
    ∧ (after (exec (.wrCtrl 0#2 1#32) minimal) minimal).irqEn ≠ minimal.irqEn
    ∧ (after (exec (.wrStride 0#2 4#32) minimal) minimal).cfg ≠ minimal.cfg
    ∧ (after (exec .groupEven (started minimal)) minimal).mem ≠ (started minimal).mem
    ∧ (after (exec .groupEven (started minimal)) minimal).memPort ≠ (started minimal).memPort
    ∧ (after (exec (.rdId 0#2 0#32) minimal) minimal).regRdata ≠ minimal.regRdata
    ∧ (after (exec (.start 0#2) (configured .portable 0xFFFFFFFC#32 2#32 [])) minimal).refused ≠ none := by decide

/-- The same, for `doneUnread` and `draws`. -/
theorem witness_onlyTheseChange_doneUnread_draws :
    (let s := ran 5 (started incoherent); (after (exec (.rowAdvanceOdd false) s) s).doneUnread ≠ s.doneUnread)
    ∧ (let s := refuse .overlapOrSize (started minimal); (after (exec .groupEven s) s).draws ≠ s.draws) := by decide +kernel

/-- For IgnoredCommandsSetOnlyCmdIgnored. -/
theorem witness_ignoredCommands : (started minimal).status.busy = true := by decide

/-- For StartRaisesInvalidGeometry, both clauses. -/
theorem witness_startRaises :
    let s := withTurn (.reg 0x10C00000001#41) (configured .portable 6#32 3#32 [])
    s.status.busy = false ∧ geomCause s.build.strategy s.cfg.stride s.cfg.height ≠ 0#5
    ∧ goesOn (step s) = true ∧ (after (step s) s).status.err = true := by decide

/-- For StartLatchesFrame: coherent; COHERENT = 0 with a dirty line just outside the source and with one at its last byte;
premises that fail; a run already refused. -/
theorem witness_startLatches :
    (minimal.status.busy = false ∧ geomCause minimal.build.strategy minimal.cfg.stride minimal.cfg.height = 0#5
      ∧ minimal.build.coherent = true ∧ minimal.refused = none ∧ (latched minimal).premisesHold = true)
    ∧ (let d : Region := ⟨0x1010#32, 1⟩; d.disjoint frame.srcRegion = true ∧ d.disjoint frame.lumaRegion = true
      ∧ d.disjoint frame.uRegion = true ∧ d.disjoint frame.vRegion = true)
    ∧ incoherent.build.coherent = false ∧ Region.disjoint ⟨0x100F#32, 1⟩ frame.srcRegion = false
    ∧ (let s := configured .portable 0xFFFFFFFC#32 2#32 [];
      geomCause s.build.strategy s.cfg.stride s.cfg.height = 0#5 ∧ (latched s).premisesHold = false)
    ∧ (refuse .overlapOrSize minimal).refused = some .overlapOrSize := by decide

/-- For ClearClearsOutcome: an idle state with an outcome to clear, and a busy one. -/
theorem witness_clear :
    (ran 6 (started minimal)).status.busy = false ∧ (ran 6 (started minimal)).status.done = true
    ∧ (started minimal).status.busy = true := by decide +kernel

/-- For GeometryCauseBits: each side of each bit. -/
theorem witness_geometryCauseBits :
    (geomCause .vector 0#32 0#32).getLsbD 0 = true ∧ (geomCause .vector 0#32 0#32).getLsbD 1 = true
    ∧ (geomCause .vector 6#32 3#32).getLsbD 2 = true ∧ (geomCause .vector 6#32 3#32).getLsbD 3 = true
    ∧ (geomCause .vector 6#32 3#32).getLsbD 4 = true ∧ geomCause .vector 32#32 2#32 = 0#5
    ∧ minimal.status.busy = false := by decide

/-- For PremisesAreDisjointRegions and OutputByteIsFrameLaw: a frame whose premises hold, and one whose do not. -/
theorem witness_premises :
    frame.premisesHold = true ∧ Conversion.premisesHold { frame with lumaBase := 0x100F#32 } = false := by decide

/-- For IrqFallsOnlyByHost. -/
theorem witness_irqFalls :
    let s := withTurn (turnWr 0x02#6 0#32) (ran 6 (started { minimal with irqEn := true }))
    s.refused = none ∧ goesOn (step s) = true ∧ irq s = true ∧ irq (after (step s) s) = false := by decide +kernel

/-- For IrqRisesOnlyAtThese. -/
theorem witness_irqRises :
    let s := ran 5 (started { minimal with irqEn := true })
    s.refused = none ∧ goesOn (step s) = true ∧ irq s = false ∧ irq (after (step s) s) = true := by decide +kernel

/-- For GroupEvenCopiesGroup and GroupOddCopiesLuma: an admitted group with apart outputs, and one not admitted. -/
theorem witness_group :
    let s := groupAt
    s.refused = none ∧ (s.build.admits false s.unitSrc 4 && s.build.admits true s.unitLuma 2
      && s.build.admits true s.unitU 1 && s.build.admits true s.unitV 1) = true
    ∧ s.unitU ≠ s.unitV ∧ s.unitLuma ≠ s.unitU ∧ s.unitLuma ≠ s.unitV ∧ s.unitLuma + 1#32 ≠ s.unitU
    ∧ s.unitLuma + 1#32 ≠ s.unitV ∧ starved.refused = none ∧ starved.build.admits false starved.unitSrc 4 = false := by decide

/-- For BlockEvenCopiesBlock, BlockOddCopiesLuma and EvenUnitFollowsPlaneMux: an admitted block with apart outputs, and one
not admitted. -/
theorem witness_block :
    let s := started (wide .vector)
    s.refused = none ∧ (s.build.admits false s.unitSrc 32 && s.build.admits true s.unitLuma 16
      && s.build.admits true s.unitU 8 && s.build.admits true s.unitV 8) = true
    ∧ Region.contains ⟨s.unitV, 8⟩ (s.unitU + 7#32) = false ∧ Region.contains ⟨s.unitU, 8⟩ (s.unitLuma + 15#32) = false
    ∧ Region.contains ⟨s.unitV, 8⟩ (s.unitLuma + 15#32) = false ∧ starved.build.admits false starved.unitSrc 32 = false := by
  decide +kernel

/-- For RefusedStepsAreFreeButComplete: units that are admitted, with memory in its form, and units that are not. -/
theorem witness_refusedSteps :
    let s := refuse .overlapOrSize (started (wide .vector))
    let z := refuse .overlapOrSize starved
    s.refused ≠ none ∧ goesOn (step s) = true ∧ s.mem.wf ∧ evenUnitAdmitted s = true ∧ oddUnitAdmitted s = true
    ∧ s.build.admits false s.unitSrc 4 = true ∧ s.build.admits true s.unitLuma 2 = true
    ∧ s.build.admits true s.unitU 1 = true ∧ s.build.admits true s.unitV 1 = true
    ∧ z.refused ≠ none ∧ z.build.admits false z.unitSrc 4 = false ∧ z.build.admits false z.unitSrc 32 = false := by decide +kernel

/-- For EvenUnitFollowsPlaneMux, BlockEvenIsEightGroups and BlockOddIsEightGroups. -/
theorem witness_blockIsEightGroups :
    let s := started (wide .vector)
    s.refused = none ∧ s.work.col.toNat % 4 = 0 ∧ s.work.col.toNat + 32 ≤ 2 ^ 32
    ∧ s.build.admits false s.unitSrc 32 = true ∧ s.build.admits true s.unitLuma 16 = true
    ∧ s.build.admits true s.unitU 8 = true ∧ s.build.admits true s.unitV 8 = true
    ∧ Region.disjoint ⟨s.unitSrc, 32⟩ ⟨s.unitLuma, 16⟩ = true ∧ Region.disjoint ⟨s.unitSrc, 32⟩ ⟨s.unitU, 8⟩ = true
    ∧ Region.disjoint ⟨s.unitSrc, 32⟩ ⟨s.unitV, 8⟩ = true ∧ Region.disjoint ⟨s.unitLuma, 16⟩ ⟨s.unitU, 8⟩ = true
    ∧ Region.disjoint ⟨s.unitLuma, 16⟩ ⟨s.unitV, 8⟩ = true ∧ Region.disjoint ⟨s.unitU, 8⟩ ⟨s.unitV, 8⟩ = true := by
  decide +kernel

/-- For EvenUnitFollowsPlaneMux on a group. -/
theorem witness_evenUnitFollowsPlaneMux :
    let s := groupAt
    s.refused = none ∧ s.work.col.toNat % 4 = 0 ∧ s.work.col.toNat + 4 ≤ 2 ^ 32
    ∧ s.build.admits false s.unitSrc 4 = true ∧ s.build.admits true s.unitLuma 2 = true
    ∧ s.build.admits true s.unitU 1 = true ∧ s.build.admits true s.unitV 1 = true
    ∧ Region.disjoint ⟨s.unitLuma, 2⟩ ⟨s.unitU, 1⟩ = true ∧ Region.disjoint ⟨s.unitLuma, 2⟩ ⟨s.unitV, 1⟩ = true
    ∧ Region.disjoint ⟨s.unitU, 1⟩ ⟨s.unitV, 1⟩ = true := by decide

/-- For OddUnitIsEvenUnitWithoutChroma and TransactionLengthsBounded. -/
theorem witness_oddUnitIsEvenUnit :
    groupAt.refused = none ∧ goesOn (exec .groupEven groupAt) = true ∧ goesOn (exec .groupOdd groupAt) = true
    ∧ goesOn (exec .blockEven groupAt) = true ∧ goesOn (exec .blockOdd groupAt) = true := by decide +kernel

/-- The rest of a row, as RowEvenContract and RowOddContract need it, in a form that Lean can evaluate. -/
abbrev rowApart (s : State) : Prop :=
  let left := s.work.rowStride.toNat - s.work.col.toNat
  let src : Region := ⟨s.unitSrc, left⟩
  let luma : Region := ⟨s.unitLuma, left / 2⟩
  let u : Region := ⟨s.unitU, left / 4⟩
  let v : Region := ⟨s.unitV, left / 4⟩
  s.refused = none ∧ s.work.rowStride.toNat % s.build.strategy.unitBytes = 0
  ∧ s.work.col.toNat % s.build.strategy.unitBytes = 0 ∧ s.work.col.toNat ≤ s.work.rowStride.toNat
  ∧ src.disjoint luma = true ∧ src.disjoint u = true ∧ src.disjoint v = true ∧ luma.disjoint u = true
  ∧ luma.disjoint v = true ∧ u.disjoint v = true

/-- For RowEvenContract and RowOddContract: from the row's start, in its middle and at its end; every byte is admitted. -/
theorem witness_rowContract :
    rowApart (started minimal) ∧ (rowApart (ran 1 (started minimal)) ∧ (ran 1 (started minimal)).work.col = 4#32)
    ∧ (rowApart (ran 2 (started minimal)) ∧ unitsLeft (ran 2 (started minimal)) = 0)
    ∧ ∀ w a, (started minimal).build.admitsByte w a = true :=
  ⟨by decide +kernel, ⟨by decide +kernel, by decide +kernel⟩, ⟨by decide +kernel, by decide +kernel⟩, launch_admits⟩

/-- A row whose first unit is admitted and whose second is not. -/
def halfRow : State :=
  { started minimal with build := { minimal.build with launch :=
    [⟨⟨0x1000#32, 4⟩, true, false⟩, ⟨⟨0x2000#32, 0x2000⟩, false, true⟩] } }

/-- For RowIsItsUnits in the two row contracts: all units; a later unit not admitted; the first one not admitted. -/
theorem witness_rowIsItsUnits :
    (let s := started minimal; evenUnitAdmitted s = true ∧ oddUnitAdmitted s = true ∧ unitsLeft s = 2
      ∧ goesOn (execRepeat .groupEven 2 s) = true ∧ goesOn (execRepeat .groupOdd 2 s) = true)
    ∧ (unitsLeft halfRow = 2 ∧ evenUnitAdmitted halfRow = true
      ∧ goesOn (execRepeat .groupEven 1 halfRow) = true
      ∧ goesOn (exec .groupEven (after (execRepeat .groupEven 1 halfRow) halfRow)) = false
      ∧ goesOn (execRepeat .groupOdd 1 halfRow) = true
      ∧ goesOn (exec .groupOdd (after (execRepeat .groupOdd 1 halfRow) halfRow)) = false)
    ∧ (unitsLeft starved = 2 ∧ evenUnitAdmitted starved = false ∧ oddUnitAdmitted starved = false) := by decide +kernel

/-- For IdleCodesHaveNoEffect: a run that has ended, and one that has not. -/
theorem witness_runEnded :
    minimal.refused = none ∧ runEnded minimal = true ∧ (started minimal).refused = none ∧ (started minimal).status.busy = true
    ∧ (refuse .overlapOrSize (started minimal)).refused ≠ none := by decide

/-- For RowAdvanceEvenMovesPointers and RowAdvanceOddCountsPair: a pair that is not the last, and the last. -/
theorem witness_rowAdvanceOdd :
    (let s := busyAt .portable 0x1008#32 0x2004#32 0x3002#32 0x3102#32 8#32 8#32 true;
      s.refused = none ∧ s.work.pairCnt + 1#32 ≠ s.work.pairsL) ∧ lastStep.refused = none
    ∧ lastStep.work.pairCnt + 1#32 = lastStep.work.pairsL ∧ lastStep.build.coherent = true
    ∧ (let s := ran 5 (started incoherent); s.build.coherent = false ∧ s.conv = some frame) := by decide +kernel

/-- For StepRunsDecodedInstruction: a state for each clause, in order. -/
theorem witness_stepRunsDecodedInstruction :
    (Instr.wellFormed (.start 0#2) = true ∧ encode (.start 0#2) = .reg 0x10C00000001#41
      ∧ (withTurn (.reg 0x10C00000001#41) minimal).schedule = [.reg 0x10C00000001#41])
    ∧ (withTurn .converter minimal).schedule = [.converter] ∧ minimal.schedule = []
    ∧ ((withTurn (.row 0b00#2) minimal).schedule = [.row 0b00#2] ∧ 0b00#2 = rowOp (withTurn (.row 0b00#2) minimal))
    ∧ ((withTurn (.row 0b10#2) minimal).schedule = [.row 0b10#2] ∧ 0b10#2 ≠ rowOp (withTurn (.row 0b10#2) minimal)
      ∧ (0b10#2 : BitVec 2) ≠ 0b11#2)
    ∧ (withTurn (.host .reset) minimal).schedule = [.host .reset]
    ∧ (let s := withTurn (.host (.pollAgain 0x01000000000#41 1#32 0#32 [])) minimal;
      s.schedule = [.host (.pollAgain 0x01000000000#41 1#32 0#32 [])] ∧ s.regRdata &&& 1#32 = 0#32
      ∧ (minimal.regRdata &&& 1#32 ≠ 1#32)) ∧ minimal.refused = none ∧ (refuse .overlapOrSize minimal).refused ≠ none := by decide

/-- For TransactionsServedInEveryState, idle and busy. -/
theorem witness_transactionsServed :
    (withTurn (.reg 0x10C00000001#41) minimal).schedule = [.reg 0x10C00000001#41]
    ∧ (withTurn (.reg 0x10C00000001#41) (started minimal)).schedule = [.reg 0x10C00000001#41]
    ∧ (withTurn (.reg 0x10C00000001#41) (started minimal)).status.busy = true
    ∧ (withTurn (.reg 0x10C00000001#41) (started minimal)).refused = none := by decide

/-- For MemoryFormKept, with memory that is not empty. -/
theorem witness_memoryFormKept :
    (started minimal).mem.wf ∧ (started minimal).mem ≠ [] ∧ goesOn (step (started minimal)) = true := by decide +kernel

/-- For RefusedMarkIsNeverCleared, at a reset event. -/
theorem witness_refusedMark :
    let s := withTurn (.host .reset) (refuse .overlapOrSize minimal)
    goesOn (step s) = true ∧ s.refused = some .overlapOrSize := by decide

/-- For ResetEventResetsRegisters: idle, and with COHERENT = 0 a frame abandoned by the reset. -/
theorem witness_resetEvent :
    minimal.status.busy = false
    ∧ ((started incoherent).status.busy = true ∧ (started incoherent).build.coherent = false
      ∧ (started incoherent).conv = some frame) := by decide

/-- For StartAfterReset. -/
theorem witness_startAfterReset :
    State.reset = State.resetWith Build.reset ∧ ∃ r, hostStep .reset (started minimal) = hostStep .reset r := ⟨rfl, _, rfl⟩

/-- For CmdIgnoredIsSticky. -/
theorem witness_cmdIgnored :
    let s := withTurn (turnWr 0x03#6 2#32) (ignoreCommand minimal)
    (started minimal).status.busy = true ∧ minimal.status.busy = false ∧ goesOn (step s) = true ∧ s.status.cmdIgnored = true ∧ (after (step s) s).status.cmdIgnored = false := by decide

/-- For HostReadReturnsMemoryOrRaces: BUSY, the last output byte and the byte after it; idle after completion; COHERENT = 0
with a stale region that ends where the read begins. -/
theorem witness_hostRead :
    (let s := started minimal
     s.refused = none ∧ s.conv = some frame ∧ s.status.busy = true ∧ s.build.coherent = true
     ∧ frame.isOutput 0x2007#32 = true ∧ frame.isOutput 0x2008#32 = false)
    ∧ (let s := ran 6 (started minimal); s.refused = none ∧ s.status.busy = false ∧ s.conv = some frame)
    ∧ (let s := ran 6 (started incoherent)
       s.build.coherent = false ∧ s.stale = [] ∧ s.doneUnread = [⟨0x2000#32, 8⟩, ⟨0x3000#32, 2⟩, ⟨0x3100#32, 2⟩]
       ∧ ∀ r ∈ s.doneUnread, r.disjoint ⟨0x2008#32, 16⟩ = true) := by decide +kernel

/-- For HostWriteIntoRunIsRefused: a write whose last byte is the region's first, one that ends just before it, and a state in
which no frame has started. -/
theorem witness_hostWrite :
    let s := started minimal
    s.status.busy = true ∧ s.conv = some frame ∧ frame.inRegions (0xFFE#32 + BitVec.ofNat 32 2) = true
    ∧ frame.inRegions 0xFFE#32 = false ∧ frame.inRegions 0xFFF#32 = false ∧ minimal.conv = none := by decide

/-- For UnshownCacheDutyRefusesRun: a dirty line over the last source byte, one over the last V byte, and a stale region met
idle and busy at its last byte. -/
theorem witness_unshownCacheDuty :
    (incoherent.status.busy = false ∧ incoherent.build.coherent = false
      ∧ geomCause incoherent.build.strategy incoherent.cfg.stride incoherent.cfg.height = 0#5
      ∧ Region.disjoint ⟨0x100F#32, 1⟩ (latched incoherent).srcRegion = false
      ∧ Region.disjoint ⟨0x3101#32, 1⟩ (latched incoherent).vRegion = false)
    ∧ ((ran 6 (started incoherent)).status.done = true ∧ ⟨0x2000#32, 8⟩ ∈ (ran 6 (started incoherent)).doneUnread)
    ∧ (let s := incoherentDone
       s.status.busy = false ∧ s.build.coherent = false ∧ ⟨0x2000#32, 8⟩ ∈ s.stale
       ∧ Region.disjoint ⟨0x2000#32, 8⟩ ⟨0x2007#32, 1⟩ = false)
    ∧ (secondFrame.status.busy = true ∧ secondFrame.build.coherent = false ∧ ⟨0x2000#32, 8⟩ ∈ secondFrame.stale)
    ∧ Region.minus ⟨0x2000#32, 8⟩ ⟨0x1FF0#32, 0x12⟩ = [⟨0x2002#32, 6⟩]
    ∧ Region.minus ⟨0x2000#32, 8⟩ ⟨0x2003#32, 2⟩ = [⟨0x2000#32, 3⟩, ⟨0x2005#32, 3⟩]
    ∧ Region.minus ⟨0xFFFFFFFE#32, 4⟩ ⟨0x0#32, 2⟩ = [⟨0xFFFFFFFE#32, 2⟩] := by decide +kernel

end Sys2Proof.Tests
end

section
/-! SUPPORT. The registers and the refused mark (10_state.md): the reserved rows of the register decode, the words of CAPS and
CTRL, and what each instruction and host action does to the mark. -/

namespace Sys2Proof

/-! ### The reserved rows of the F-REG decode -/

/-- An OFFSET from 0x40 on has a word index from 16 on: it is past the registers of 10_state.md R27. -/
theorem le_index_of_reserved {off : BitVec 8} (h : 0x40 ≤ off.toNat) : 16 ≤ (off.extractLsb' 2 6).toNat := by
  rw [BitVec.extractLsb'_toNat, Nat.shiftRight_eq_div_pow]
  omega

theorem decodeRead_reserved {idx : BitVec 6} (h : 16 ≤ idx.toNat) (lo : BitVec 2) (data : Word) :
    decodeRead idx lo data =
      if idx.toNat < 32 then .rdRsv40 (rsvLow idx lo) data
      else if idx.toNat < 48 then .rdRsv80 (rsvLow idx lo) data else .rdRsvC0 (rsvLow idx lo) data := by
  unfold decodeRead
  split
  case h_17 => rfl
  all_goals omega

theorem decodeWrite_reserved {idx : BitVec 6} (h : 16 ≤ idx.toNat) (lo : BitVec 2) (data : Word) :
    decodeWrite idx lo data =
      if idx.toNat < 32 then .wrRsv40 (rsvLow idx lo) data
      else if idx.toNat < 48 then .wrRsv80 (rsvLow idx lo) data else .wrRsvC0 (rsvLow idx lo) data := by
  unfold decodeWrite
  split
  case h_17 => rfl
  all_goals omega

namespace Machine

theorem exec_decodeRead_reserved {idx : BitVec 6} (h : 16 ≤ idx.toNat) (lo : BitVec 2) (data : Word) (s : State) :
    exec (decodeRead idx lo data) s = .next (respond 0#32 s) := by
  rw [decodeRead_reserved h]
  split
  · rfl
  · split <;> rfl

theorem exec_decodeWrite_reserved {idx : BitVec 6} (h : 16 ≤ idx.toNat) (lo : BitVec 2) (data : Word) (s : State) :
    exec (decodeWrite idx lo data) s = .next s := by
  rw [decodeWrite_reserved h]
  split
  · rfl
  · split <;> rfl

/-- Settles O6: a reserved OFFSET is a word index from 16 on, and every such row of the decode table is a reserved one. -/
theorem reservedOffsetsReadZero : Obligations.ReservedOffsetsReadZero := by
  intro off data s hoff
  have hidx := le_index_of_reserved hoff
  rw [offset_eq_regOffset off, decode_fRegRead, decode_fRegWrite]
  exact ⟨exec_decodeRead_reserved hidx _ _ s, exec_decodeWrite_reserved hidx _ _ s⟩

/-! ### The words of CAPS and CTRL -/

theorem capsValue_portable : Config.capsValue .portable = 0x00200400#32 := by decide

theorem capsValue_vector : Config.capsValue .vector = 0x00202001#32 := by decide

/-- A read of CTRL gives IRQ_EN alone (10_state.md R32). -/
theorem ctrlWord_eq (s : State) : ctrlWord s = if s.irqEn then 1#32 else 0#32 := by
  unfold ctrlWord
  cases s.irqEn <;> rfl

theorem exec_rdCaps (lo : BitVec 2) (data : Word) (s : State) :
    exec (.rdCaps lo data) s = .next (respond (Config.capsValue s.build.strategy) s) := rfl

theorem exec_rdCtrl (lo : BitVec 2) (data : Word) (s : State) :
    exec (.rdCtrl lo data) s = .next (respond (ctrlWord s) s) := rfl

/-- Settles O11: CAPS by build and CTRL by IRQ_EN; the other reads answer a constant or a stored register as it stands. -/
theorem readsReturnRegisters : Obligations.ReadsReturnRegisters := by
  intro lo data s
  refine ⟨rfl, fun hb => ?portable, fun hb => ?vector, ?ctrl, rfl, rfl, rfl, rfl, rfl, rfl, rfl, rfl, rfl, rfl, rfl, rfl, rfl⟩
  case portable => rw [exec_rdCaps, hb, capsValue_portable]; rfl
  case vector => rw [exec_rdCaps, hb, capsValue_vector]; rfl
  case ctrl => rw [exec_rdCtrl, ctrlWord_eq]; rfl

/-! ### The refused mark

Instructions other than START leave the mark as it is; START and the host's accesses set it only through `refuse`, which
keeps the first reason. -/

theorem converterEffect_refused {f : State → State} {s : State} (hf : (f s).refused = s.refused) :
    (converterEffect f s).refused = s.refused := by
  rcases converterEffect_cases f s with ⟨-, e⟩ | ⟨-, e⟩
  · rw [e, hf]
  · rw [e, refusedState_refused]

theorem runUnits_refused {n k : Nat} {route : State → List Byte → UnitWrites} {s t : State}
    (h : runUnits n route k s = .next t) : t.refused = s.refused :=
  runUnits_keeps (fun u => u.refused = s.refused)
    (fun _ hu => (converterEffect_refused (unitDone_refused ..)).trans hu) k s t rfl h

theorem unitStep_refused {n : Nat} {route : State → List Byte → UnitWrites} {s t : State}
    (h : unitStep n route s = .next t) : t.refused = s.refused := by
  rcases unitStep_next h with ⟨-, e⟩ | ⟨-, e⟩
  · rw [e, unitDone_refused]
  · rw [e, refusedState_refused]

/-- Every instruction but START leaves the mark as it is. -/
theorem exec_refused {i : Instr} {s t : State} (h : exec i s = .next t) (hi : ∀ lo, i ≠ .start lo) :
    t.refused = s.refused := by
  cases i with
  | start lo => exact absurd rfl (hi lo)
  | clear lo =>
    obtain rfl := Host.Outcome.next.inj h
    split <;> rfl
  | groupEven | blockEven | groupOdd | blockOdd => exact unitStep_refused h
  | rowEven | rowOdd => exact runUnits_refused h
  | rowAdvanceEven vec =>
    obtain rfl := Host.Outcome.next.inj h
    exact converterEffect_refused (advanceEven_refused s)
  | rowAdvanceOdd vec =>
    obtain rfl := Host.Outcome.next.inj h
    exact converterEffect_refused (advanceOdd_refused s)
  | _ =>
    obtain rfl := Host.Outcome.next.inj h
    rfl

theorem frameStart_keeps_mark {s : State} {r : RefuseReason} (hs : s.refused = some r) :
    (frameStart s).refused = some r := by
  simp [frameStart_refused, hs]

theorem acceptStart_keeps_mark {s : State} {r : RefuseReason} (hs : s.refused = some r) :
    (acceptStart s).refused = some r := by
  unfold acceptStart
  dsimp only
  split
  · exact frameStart_keeps_mark hs
  · exact hs

theorem exec_start_keeps_mark {lo : BitVec 2} {s t : State} {r : RefuseReason} (h : exec (.start lo) s = .next t)
    (hs : s.refused = some r) : t.refused = some r := by
  obtain rfl := Host.Outcome.next.inj h
  split
  · exact hs
  · exact acceptStart_keeps_mark hs

theorem exec_keeps_mark {i : Instr} {s t : State} {r : RefuseReason} (h : exec i s = .next t) (hs : s.refused = some r) :
    t.refused = some r := by
  by_cases hi : ∃ lo, i = .start lo
  · obtain ⟨lo, rfl⟩ := hi
    exact exec_start_keeps_mark h hs
  · exact (exec_refused h fun lo e => hi ⟨lo, e⟩).trans hs

theorem refuseByHost_keeps_mark {s : State} {r : RefuseReason} (reason : RefuseReason) (hs : s.refused = some r) :
    (refuseByHost reason s).refused = some r := by
  simp [hs]

/-- Every host action keeps a mark that is set, the reset event included. -/
theorem hostStep_keeps_mark (a : HostAction) {s : State} {r : RefuseReason} (hs : s.refused = some r) :
    (hostStep a s).refused = some r := by
  cases a with
  | memWrite x bytes =>
    rcases hostWrite_cases x bytes s with ⟨-, e⟩ | ⟨-, e⟩
    · exact (congrArg State.refused e).trans hs
    · exact (congrArg State.refused e).trans (refuseByHost_keeps_mark _ hs)
  | memRead x n =>
    rcases hostRead_cases x n s with ⟨-, -, e⟩ | ⟨-, e⟩
    · exact (congrArg State.refused e).trans hs
    · exact (congrArg State.refused e).trans (refuseByHost_keeps_mark _ hs)
  | cacheClean x n => exact hs
  | cacheInvalidate x n => exact hs
  | reset => exact (resetEvent_refused s).trans hs
  | pollAgain word mask value pace =>
    rcases pollAgain_cases word mask value pace s with ⟨-, e⟩ | ⟨-, e⟩ <;>
      exact (congrArg State.refused e).trans hs

@[simp] theorem hostLearns_refused (i : Instr) (s : State) : (hostLearns i s).refused = s.refused := by
  rw [hostLearns_frame]

theorem fetch_refused {s s' : State} {f : Fetched} (h : fetch s = (f, s')) : s'.refused = s.refused := by
  rw [fetch_state h]

theorem step_keeps_mark {s t : State} {r : RefuseReason} (h : step s = .next t) (hs : s.refused = some r) :
    t.refused = some r := by
  rcases step_next h with ⟨i, s', u, hf, he, rfl⟩ | ⟨a, s', hf, rfl⟩
  · have hu : u.refused = some r := exec_keeps_mark he ((fetch_refused hf).trans hs)
    rw [settle_refused, hostLearns_refused, hu]
  · rw [settle_refused]
    exact hostStep_keeps_mark a ((fetch_refused hf).trans hs)

/-- Settles O50: every instruction and every host action keeps a set mark, so every step does (10_state.md R57). -/
theorem refusedMarkIsNeverCleared : Obligations.RefusedMarkIsNeverCleared := by
  refine ⟨fun s t r h hs => step_keeps_mark h hs, fun s r => ?_, fun b => rfl⟩
  rw [refuse_refused]
  exact Option.some_ne_none _

end Machine
end Sys2Proof
end

section
/-! SUPPORT. The small tables of 30_encoding.md: the command word (R101), the row operation code (R106) and the step selector
(R105, R107). -/

namespace Sys2Proof

/-! ### The command word -/

theorem decodeCmd_of_rsv {data : Word} (h : cmdRsv data ≠ 0) (lo : BitVec 2) :
    decodeCmd lo data = .ignoredRsv lo data := if_pos h

/-- With RSV = 0 the command is OP's. -/
theorem decodeCmd_of_op {data : Word} (h : cmdRsv data = 0) (lo : BitVec 2) :
    (cmdOp data = 0b00#2 → decodeCmd lo data = .nop lo) ∧ (cmdOp data = 0b01#2 → decodeCmd lo data = .start lo)
    ∧ (cmdOp data = 0b10#2 → decodeCmd lo data = .clear lo)
    ∧ (cmdOp data = 0b11#2 → decodeCmd lo data = .ignoredOp lo) := by
  refine ⟨fun hop => ?nop, fun hop => ?start, fun hop => ?clear, fun hop => ?ignored⟩
  case nop | start | clear | ignored => rw [decodeCmd, if_neg (not_not_intro h), hop]; rfl

/-- A write to CMD decodes as the command that its DATA holds (30_encoding.md R104). -/
theorem decode_writeCmd (lo : BitVec 2) (data : Word) :
    decode (.reg (fRegWord 1#1 (regOffset 0x03#6 lo) data)) = decodeCmd lo data := decode_fRegWrite _ _ _

/-! ### The row operation code and the step selector -/

theorem decode_rowIdle : decode (.row 0b00#2) = .rowIdle := rfl
theorem decode_rowEven : decode (.row 0b01#2) = .rowEven := rfl
theorem decode_rowOdd : decode (.row 0b10#2) = .rowOdd := rfl
theorem decode_rowRsv : decode (.row 0b11#2) = .rowRsv := rfl

/-- The step that the selector's four bits name (30_encoding.md R107). -/
def stepOfBits (busy isEnd phase vec : Bool) : Instr :=
  match busy, isEnd, phase, vec with
  | false, e, p, v => .stepIdle e p v
  | true, false, false, false => .groupEven
  | true, false, false, true => .blockEven
  | true, false, true, false => .groupOdd
  | true, false, true, true => .blockOdd
  | true, true, false, v => .rowAdvanceEven v
  | true, true, true, v => .rowAdvanceOdd v

theorem decode_step_bits (busy isEnd phase vec : Bool) :
    decode (.step (BitVec.ofBool busy ++ BitVec.ofBool isEnd ++ BitVec.ofBool phase ++ BitVec.ofBool vec))
      = stepOfBits busy isEnd phase vec := by
  revert busy isEnd phase vec
  decide

namespace Machine

theorem exec_ignoredRsv (lo : BitVec 2) (data : Word) (s : State) :
    exec (.ignoredRsv lo data) s = .next (ignoreCommand s) := rfl

theorem exec_ignoredOp (lo : BitVec 2) (s : State) : exec (.ignoredOp lo) s = .next (ignoreCommand s) := rfl

/-- Settles O4: a write to CMD is its command word's decode, which tests RSV before OP; both ignored forms are
`ignoreCommand`. -/
theorem commandDecodeOrder : Obligations.CommandDecodeOrder := by
  refine ⟨fun lo data => ?words, by decide, by decide, by decide,
    fun lo data s => ⟨exec_ignoredRsv lo data s, exec_ignoredOp lo s⟩⟩
  case words =>
    rw [decode_writeCmd]
    exact ⟨fun hrsv => decodeCmd_of_rsv hrsv lo, fun hrsv => decodeCmd_of_op hrsv lo⟩

theorem rowDone_iff (s : State) : rowDone s = true ↔ s.work.col = s.work.rowStride := beq_iff_eq

/-- The converter's next step depends on BUSY, END, PHASE and VEC alone (30_encoding.md R105, R107). -/
theorem converterInstr_eq (s : State) :
    converterInstr s = stepOfBits s.status.busy (rowDone s) s.status.phase s.build.strategy.isVector :=
  decode_step_bits ..

/-- Settles O8: the selector's bits, row by row of the table. -/
theorem stepSelectorTable : Obligations.StepSelectorTable := by
  intro s
  simp only [converterInstr_eq, ← rowDone_iff, Bool.not_eq_true]
  refine ⟨fun hb => ?idle, fun hb he hp hv => ?groupEven, fun hb he hp hv => ?blockEven, fun hb he hp hv => ?groupOdd,
    fun hb he hp hv => ?blockOdd, fun hb he hp => ?advanceEven, fun hb he hp => ?advanceOdd⟩
  case idle => rw [hb]; exact ⟨_, _, _, rfl⟩
  case groupEven | blockEven | groupOdd | blockOdd => rw [hb, he, hp, hv]; rfl
  case advanceEven | advanceOdd => rw [hb, he, hp]; exact ⟨_, rfl⟩

/-- The code that frame_iterator drives: EVEN or ODD by PHASE while BUSY, otherwise IDLE (30_encoding.md R106). -/
theorem rowOp_eq (s : State) :
    rowOp s = if s.status.busy then (if s.status.phase then 0b10#2 else 0b01#2) else 0b00#2 := by
  unfold rowOp
  cases s.status.busy <;> cases s.status.phase <;> rfl

theorem exec_rowIdle (s : State) : exec .rowIdle s = .next s := rfl

theorem exec_rowRsv (s : State) : exec .rowRsv s = .next s := rfl

/-- The reserved code is never driven (30_encoding.md R106). -/
theorem rowOp_ne_reserved (s : State) : rowOp s ≠ 0b11#2 := by
  rw [rowOp_eq]
  split
  · split <;> decide
  · decide

/-- Settles O9: the driven code by BUSY and PHASE; IDLE and the reserved code both leave the state as it is. -/
theorem rowCodeDriven : Obligations.RowCodeDriven := by
  refine ⟨fun s => ⟨fun hb hp => ?even, fun hb hp => ?odd, fun hb => ?idle, rowOp_ne_reserved s, exec_rowIdle s,
    (exec_rowRsv s).trans (exec_rowIdle s).symm⟩, decode_rowIdle, decode_rowEven, decode_rowOdd, decode_rowRsv⟩
  case even | odd => rw [rowOp_eq, hb, hp]; rfl
  case idle => rw [rowOp_eq, hb]; rfl

end Machine
end Sys2Proof
end

section
/-! SUPPORT. The geometry check and what START records of it (42_frame_iterator.md R170, 43_host_interface.md R206). -/

namespace Sys2Proof.Machine

/-! ### The causes, bit by bit -/

/-- Each bit of a cause, from bit 0 on, is the Boolean built in at its place. -/
theorem getLsbD_ofBool_append (b0 b1 b2 b3 b4 : Bool) :
    let w := BitVec.ofBool b4 ++ BitVec.ofBool b3 ++ BitVec.ofBool b2 ++ BitVec.ofBool b1 ++ BitVec.ofBool b0
    w.getLsbD 0 = b0 ∧ w.getLsbD 1 = b1 ∧ w.getLsbD 2 = b2 ∧ w.getLsbD 3 = b3 ∧ w.getLsbD 4 = b4 := by
  revert b0 b1 b2 b3 b4
  decide

/-- The five bits of `geom_cause`, each the outcome of its own check, whatever the others are (42_frame_iterator.md R170). -/
theorem geomCause_getLsbD (st : Strategy) (s h : Word) :
    (geomCause st s h).getLsbD 0 = decide (s = 0#32)
    ∧ (geomCause st s h).getLsbD 1 = decide (h = 0#32)
    ∧ (geomCause st s h).getLsbD 2 = decide (s.toNat % 4 ≠ 0)
    ∧ (geomCause st s h).getLsbD 3 = decide (h.toNat % 2 ≠ 0)
    ∧ (geomCause st s h).getLsbD 4 = (st.isVector && decide (s.toNat % 32 ≠ 0)) :=
  getLsbD_ofBool_append ..

theorem isVector_iff (st : Strategy) : st.isVector = true ↔ st = .vector := by
  cases st <;> decide

/-! ### An accepted START -/

/-- START outside BUSY is accepted (43_host_interface.md R206). -/
theorem exec_start_of_idle {s : State} (hb : s.status.busy = false) (lo : BitVec 2) :
    exec (.start lo) s = .next (acceptStart s) :=
  congrArg Host.Outcome.next (if_neg (ne_true_of_eq_false hb))

theorem acceptStart_of_pass {s : State} (hg : geomCause s.build.strategy s.cfg.stride s.cfg.height = 0#5) :
    acceptStart s = frameStart (clearOutcome s) := if_pos hg

theorem acceptStart_of_fail {s : State} (hg : geomCause s.build.strategy s.cfg.stride s.cfg.height ≠ 0#5) :
    acceptStart s =
      raiseInvalidGeometry (geomCause s.build.strategy s.cfg.stride s.cfg.height) (clearOutcome s) := if_neg hg

/-- An accepted START leaves the causes of the current geometry in GEOM_CAUSE; they are none when it passes. -/
theorem acceptStart_geomCause (s : State) :
    (acceptStart s).status.geomCause = geomCause s.build.strategy s.cfg.stride s.cfg.height := by
  by_cases hg : geomCause s.build.strategy s.cfg.stride s.cfg.height = 0#5
  · rw [acceptStart_of_pass hg, frameStart_status, latchFrame_status, clearOutcome_status, hg]
  · rw [acceptStart_of_fail hg, raiseInvalidGeometry_status]

/-- An accepted START makes the block BUSY exactly when the geometry passes. -/
theorem acceptStart_busy {s : State} (hb : s.status.busy = false) :
    (acceptStart s).status.busy = true ↔ geomCause s.build.strategy s.cfg.stride s.cfg.height = 0#5 := by
  by_cases hg : geomCause s.build.strategy s.cfg.stride s.cfg.height = 0#5
  · rw [acceptStart_of_pass hg, frameStart_status, latchFrame_status]
    exact iff_of_true rfl hg
  · rw [acceptStart_of_fail hg, raiseInvalidGeometry_status, clearOutcome_status]
    exact iff_of_false (ne_true_of_eq_false hb) hg

/-- Settles O21: the bits of `geomCause`, and the two branches of an accepted START. -/
theorem geometryCauseBits : Obligations.GeometryCauseBits := by
  refine ⟨fun st s h => ?bits, fun lo s hb => ?start⟩
  case bits =>
    obtain ⟨strideZero, heightZero, strideMult4, heightOdd, strideBlock⟩ := geomCause_getLsbD st s h
    rw [strideZero, heightZero, strideMult4, heightOdd, strideBlock, Bool.and_eq_true, isVector_iff]
    simp only [decide_eq_true_eq, BitVec.toNat_eq, BitVec.toNat_zero, ne_eq, and_self]
  case start =>
    exact ⟨acceptStart s, exec_start_of_idle hb lo, acceptStart_geomCause s, acceptStart_busy hb⟩

end Sys2Proof.Machine
end

section
/-! SUPPORT. The host interface: writes to read-only registers, NOP and CLEAR (43_host_interface.md R202, R205, R207). -/

namespace Sys2Proof

/-- The writes of read-only registers (43_host_interface.md R202). -/
def writesReadOnly : Instr → Bool
  | .wrId .. | .wrCaps .. | .wrStatus .. | .wrSrcPtr .. | .wrLumaPtr .. | .wrUPtr .. | .wrVPtr .. | .wrPairCnt .. => true
  | _ => false

/-- The word indices of the read-only registers decode, when written, as writes of read-only registers (30_encoding.md R104). -/
theorem writesReadOnly_decodeWrite {idx : BitVec 6}
    (h : idx ∈ [0x00#6, 0x01#6, 0x04#6, 0x0B#6, 0x0C#6, 0x0D#6, 0x0E#6, 0x0F#6]) (lo : BitVec 2) (data : Word) :
    writesReadOnly (decodeWrite idx lo data) = true := by
  simp only [List.mem_cons, List.not_mem_nil, or_false] at h
  rcases h with rfl | rfl | rfl | rfl | rfl | rfl | rfl | rfl <;> rfl

/-- The word 0 written to CMD has RSV = 0 and OP = 0. -/
theorem decode_nopWord : decode (.reg 0x10C00000000#41) = .nop 0#2 := by
  obtain ⟨nop, -, -, -⟩ := decodeCmd_of_op (data := 0#32) (by decide) 0#2
  exact (decode_writeCmd 0#2 0#32).trans (nop (by decide))

/-- The word 2 written to CMD has RSV = 0 and OP = 2. -/
theorem decode_clearWord : decode (.reg 0x10C00000002#41) = .clear 0#2 := by
  obtain ⟨-, -, clear, -⟩ := decodeCmd_of_op (data := 2#32) (by decide) 0#2
  exact (decode_writeCmd 0#2 2#32).trans (clear (by decide))

namespace Machine

/-! ### Writes to read-only registers, and NOP -/

theorem exec_of_writesReadOnly {i : Instr} (h : writesReadOnly i = true) (s : State) : exec i s = .next s := by
  cases i with
  | wrId | wrCaps | wrStatus | wrSrcPtr | wrLumaPtr | wrUPtr | wrVPtr | wrPairCnt => rfl
  | _ => exact absurd h Bool.false_ne_true

/-- Settles O10: each of the eight instructions writes a read-only register, and each of the eight words decodes as one. -/
theorem readOnlyWritesIgnored : Obligations.ReadOnlyWritesIgnored := by
  refine ⟨fun lo data s => ?instructions, fun idx hidx lo data s => ?words⟩
  case instructions =>
    refine ⟨?_, ?_, ?_, ?_, ?_, ?_, ?_, ?_⟩ <;> exact exec_of_writesReadOnly rfl s
  case words =>
    rw [decode_fRegWrite]
    exact exec_of_writesReadOnly (writesReadOnly_decodeWrite hidx lo data) s

theorem exec_nop (lo : BitVec 2) (s : State) : exec (.nop lo) s = .next s := rfl

/-- Settles O16: the word 0 is NOP, and NOP looks at nothing of the state, BUSY included. -/
theorem nopHasNoEffect : Obligations.NopHasNoEffect := ⟨decode_nopWord, exec_nop⟩

/-! ### CLEAR -/

/-- CLEAR outside BUSY is accepted (43_host_interface.md R207). -/
theorem exec_clear_of_idle {s : State} (hb : s.status.busy = false) (lo : BitVec 2) :
    exec (.clear lo) s = .next (acceptClear s) :=
  congrArg Host.Outcome.next (if_neg (ne_true_of_eq_false hb))

/-- CLEAR while BUSY is an ignored command (43_host_interface.md R207, R208). -/
theorem exec_clear_of_busy {s : State} (hb : s.status.busy = true) (lo : BitVec 2) :
    exec (.clear lo) s = .next (ignoreCommand s) :=
  congrArg Host.Outcome.next (if_pos hb)

/-- Without DONE and ERR nothing asks for the interrupt (60_exceptions.md R240). -/
theorem irq_of_no_outcome {s : State} (hdone : s.status.done = false) (herr : s.status.err = false) : irq s = false := by
  rw [irq, hdone, herr, Bool.or_self, Bool.and_false]

theorem irq_acceptClear (s : State) : irq (acceptClear s) = false := by
  apply irq_of_no_outcome <;> rw [acceptClear_status]

/-- Settles O20: an idle CLEAR is `acceptClear`, which leaves no DONE and no ERR to drive `irq`; a busy one is
`ignoreCommand`. -/
theorem clearClearsOutcome : Obligations.ClearClearsOutcome :=
  ⟨decode_clearWord, fun lo s =>
    ⟨fun hb => ⟨exec_clear_of_idle hb lo, irq_acceptClear s⟩, fun hb => exec_clear_of_busy hb lo⟩⟩

end Machine
end Sys2Proof
end

section
/-! SUPPORT. START on registers at their reset values (70_reset_and_hazards.md R263). -/

namespace Sys2Proof.Machine

/-- With STRIDE and HEIGHT both 0, STRIDE_ZERO and HEIGHT_ZERO fail and nothing else does: 0 is a multiple of 4 and of 32
and is even, so VEC does not matter (42_frame_iterator.md R170). -/
theorem geomCause_zero (st : Strategy) : geomCause st 0#32 0#32 = 0b00011#5 := by
  cases st <;> decide

/-- A START in which STATUS and the configuration registers are as reset leaves them is not ignored, and its geometry
fails. -/
theorem exec_start_of_resetRegisters {s : State} (hstatus : s.status = Status.reset) (hcfg : s.cfg = ConfigRegs.reset)
    (lo : BitVec 2) : exec (.start lo) s = .next (raiseInvalidGeometry 0b00011#5 (clearOutcome s)) := by
  have hidle : s.status.busy = false := congrArg Status.busy hstatus
  have hcause : geomCause s.build.strategy s.cfg.stride s.cfg.height = 0b00011#5 := by
    rw [hcfg]
    exact geomCause_zero s.build.strategy
  have hfails : geomCause s.build.strategy s.cfg.stride s.cfg.height ≠ 0#5 := by
    rw [hcause]
    decide
  rw [exec_start_of_idle hidle, acceptStart_of_fail hfails, hcause]

/-- STATUS after that START: ERR, ERR_CODE 1 and the two causes, the rest 0 (10_state.md R33). -/
theorem statusWord_raised_of_reset {s : State} (hstatus : s.status = Status.reset) :
    (raiseInvalidGeometry 0b00011#5 (clearOutcome s)).status.word = 0x00010304#32 := by
  rw [raiseInvalidGeometry_status, clearOutcome_status, hstatus]
  decide

/-- Settles O43: a reset state and a reset event both put STATUS and the configuration registers at their reset values, and
on these START raises InvalidGeometry, which touches STATUS alone. -/
theorem startAfterReset : Obligations.StartAfterReset := by
  intro b s lo hreset
  obtain ⟨hstatus, hcfg⟩ : s.status = Status.reset ∧ s.cfg = ConfigRegs.reset := by
    rcases hreset with rfl | ⟨r, rfl⟩
    case inl => exact ⟨rfl, rfl⟩
    case inr => exact ⟨resetEvent_status r, resetEvent_cfg r⟩
  exact ⟨_, exec_start_of_resetRegisters hstatus hcfg lo, statusWord_raised_of_reset hstatus, rfl, rfl, rfl, rfl⟩

end Sys2Proof.Machine
end

section
/-! SUPPORT. The encodings round trip: decode and encode are inverse to each other on the well-formed instructions of every
format (30_encoding.md section 1, R108), and the fields that the block ignores. -/

namespace Sys2Proof

/-! ### Bit fields that are put together and taken apart -/

/-- A word index from its two parts, as the reserved offsets split it. -/
theorem rsvOffset_eq_regOffset (high : BitVec 2) (low : BitVec 6) :
    (high ++ low : BitVec 8) = regOffset (high ++ low.extractLsb' 2 4 : BitVec 6) (low.extractLsb' 0 2) := by
  refine BitVec.eq_of_getLsbD_eq fun i hi => ?_
  rw [rsvOffset_getLsbD, regOffset_getLsbD, BitVec.getLsbD_append, BitVec.getLsbD_extractLsb', BitVec.getLsbD_extractLsb']
  by_cases h2 : i < 2
  · simp [h2, show i < 6 by omega]
  · by_cases h6 : i < 6
    · simp [h2, h6, show i - 2 < 4 by omega, show 2 + (i - 2) = i by omega]
    · simp [h2, h6, show ¬ i - 2 < 4 by omega, show i - 2 - 4 = i - 6 by omega]

/-- The low six OFFSET bits of a reserved offset are read back. -/
theorem rsvLow_split (high : BitVec 2) (low : BitVec 6) :
    rsvLow (high ++ low.extractLsb' 2 4 : BitVec 6) (low.extractLsb' 0 2) = low := by
  refine BitVec.eq_of_getLsbD_eq fun i hi => ?_
  rw [rsvLow, BitVec.getLsbD_append, BitVec.getLsbD_extractLsb', BitVec.getLsbD_extractLsb', BitVec.getLsbD_append,
    BitVec.getLsbD_extractLsb']
  by_cases h2 : i < 2
  · simp [h2]
  · simp [h2, show i - 2 < 4 by omega, show 2 + (i - 2) = i by omega]

/-- The high two bits of a word index, put before the low six OFFSET bits, give the OFFSET back. -/
theorem high_append_rsvLow (idx : BitVec 6) (lo : BitVec 2) :
    (idx.extractLsb' 4 2 ++ rsvLow idx lo : BitVec 8) = regOffset idx lo := by
  refine BitVec.eq_of_getLsbD_eq fun i hi => ?_
  rw [rsvOffset_getLsbD, regOffset_getLsbD, rsvLow, BitVec.getLsbD_append, BitVec.getLsbD_extractLsb',
    BitVec.getLsbD_extractLsb']
  by_cases h2 : i < 2
  · simp [h2, show i < 6 by omega]
  · by_cases h6 : i < 6
    · simp [h2, h6, show i - 2 < 4 by omega]
    · simp [h2, h6, show i - 6 < 2 by omega, show 4 + (i - 6) = i - 2 by omega]

/-- A word index whose high two bits are `high` lies in `high`'s quarter of the register map. -/
theorem toNat_high_append (high : BitVec 2) (low : BitVec 4) :
    (high ++ low : BitVec 6).toNat = 16 * high.toNat + low.toNat := by
  rw [BitVec.toNat_append, ← Nat.shiftLeft_add_eq_or_of_lt low.isLt, Nat.shiftLeft_eq]
  omega

/-- The high two bits of a word index are its quarter of the register map. -/
theorem high_eq_ofNat (idx : BitVec 6) : idx.extractLsb' 4 2 = BitVec.ofNat 2 (idx.toNat / 16) := by
  apply BitVec.eq_of_toNat_eq
  rw [BitVec.extractLsb'_toNat, BitVec.toNat_ofNat, Nat.shiftRight_eq_div_pow]

/-- Every F-REG word is built of its fields. -/
theorem fRegWord_fields (w : BitVec 41) :
    w = fRegWord (BitVec.ofBool (fRegWrite w)) (regOffset (fRegIndex w) (fRegLow w)) (fRegData w) := by
  refine BitVec.eq_of_getLsbD_eq fun i hi => ?_
  rw [fRegWord_getLsbD, regOffset_getLsbD, fRegIndex, fRegLow, fRegData, fRegWrite, BitVec.getLsbD_extractLsb',
    BitVec.getLsbD_extractLsb', BitVec.getLsbD_extractLsb']
  by_cases h32 : i < 32
  · simp [h32]
  · by_cases h34 : i < 34
    · simp [h32, show i < 40 by omega, show i - 32 < 2 by omega, show 32 + (i - 32) = i by omega]
    · by_cases h40 : i < 40
      · simp [h32, h40, show ¬ i - 32 < 2 by omega, show i - 32 - 2 < 6 by omega, show 34 + (i - 32 - 2) = i by omega]
      · simp [show i = 40 by omega]

/-! ### Decode of encode -/

/-- The reserved constructors by quarter of the register map (30_encoding.md R104): the row of the word index whose high two
bits are `high`. -/
theorem quarter_lt_iff (high : BitVec 2) (low : BitVec 4) :
    ((high ++ low : BitVec 6).toNat < 32 ↔ high.toNat < 2) ∧ ((high ++ low : BitVec 6).toNat < 48 ↔ high.toNat < 3)
    ∧ (16 ≤ (high ++ low : BitVec 6).toNat ↔ 1 ≤ high.toNat) := by
  have := low.isLt
  rw [toNat_high_append]
  omega

/-- A read of a reserved offset, by the high two bits of the offset. -/
theorem decode_readReserved {high : BitVec 2} (hh : 1 ≤ high.toNat) (low : BitVec 6) (data : Word) :
    decode (.reg (fRegWord 0#1 (high ++ low) data)) =
      if high.toNat < 2 then .rdRsv40 low data else if high.toNat < 3 then .rdRsv80 low data else .rdRsvC0 low data := by
  obtain ⟨h32, h48, h16⟩ := quarter_lt_iff high (low.extractLsb' 2 4)
  rw [rsvOffset_eq_regOffset, decode_fRegRead, decodeRead_reserved (h16.mpr hh), rsvLow_split]
  simp only [h32, h48]

/-- A write of a reserved offset, by the high two bits of the offset. -/
theorem decode_writeReserved {high : BitVec 2} (hh : 1 ≤ high.toNat) (low : BitVec 6) (data : Word) :
    decode (.reg (fRegWord 1#1 (high ++ low) data)) =
      if high.toNat < 2 then .wrRsv40 low data else if high.toNat < 3 then .wrRsv80 low data else .wrRsvC0 low data := by
  obtain ⟨h32, h48, h16⟩ := quarter_lt_iff high (low.extractLsb' 2 4)
  rw [rsvOffset_eq_regOffset, decode_fRegWrite, decodeWrite_reserved (h16.mpr hh), rsvLow_split]
  simp only [h32, h48]

/-- Settles O2: format by format; a register word gives its fields back, and then the decode table gives the row that was
encoded. -/
theorem decodeOfEncode : Obligations.DecodeOfEncode := by
  intro i hwf
  cases i with
  | ignoredRsv lo data => exact (decode_writeCmd lo data).trans (decodeCmd_of_rsv (bne_iff_ne.mp hwf) lo)
  | wrRsv40 low data | wrRsv80 low data | wrRsvC0 low data => exact decode_writeReserved (by decide) low data
  | rdRsv40 low data | rdRsv80 low data | rdRsvC0 low data => exact decode_readReserved (by decide) low data
  | rowIdle | rowEven | rowOdd | rowRsv => rfl
  | groupEven | blockEven | groupOdd | blockOdd => rfl
  | stepIdle endBit phase vec => exact decode_step_bits false endBit phase vec
  | rowAdvanceEven vec => cases vec <;> rfl
  | rowAdvanceOdd vec => cases vec <;> rfl
  | rdId lo data | rdCaps lo data | rdCtrl lo data | rdCmd lo data | rdStatus lo data | rdSrcBase lo data
  | rdLumaBase lo data | rdUBase lo data | rdVBase lo data | rdStride lo data | rdHeight lo data | rdSrcPtr lo data
  | rdLumaPtr lo data | rdUPtr lo data | rdVPtr lo data | rdPairCnt lo data => exact decode_fRegRead _ lo data
  | _ => exact decode_fRegWrite _ _ _

/-! ### Encode of decode -/

theorem encode_decodeCmd (lo : BitVec 2) (data : Word) :
    (decodeCmd lo data).wellFormed = true ∧ encode (decodeCmd lo data) = encodeWrite 0x03#6 lo data := by
  by_cases hrsv : cmdRsv data = 0
  case neg => rw [decodeCmd_of_rsv hrsv]; exact ⟨bne_iff_ne.mpr hrsv, rfl⟩
  case pos =>
    have hdata : data = BitVec.ofNat 32 (cmdOp data).toNat := by
      have := congrArg BitVec.toNat hrsv
      apply BitVec.eq_of_toNat_eq
      simp only [cmdRsv, cmdOp, BitVec.extractLsb'_toNat, Nat.shiftRight_eq_div_pow, BitVec.toNat_ofNat, BitVec.ofNat_eq_ofNat] at this ⊢
      have := data.isLt
      omega
    rw [decodeCmd, if_neg (not_not_intro hrsv)]
    have := (cmdOp data).isLt
    generalize (cmdOp data).toNat = k at *
    subst hdata
    interval_cases k <;> exact ⟨rfl, rfl⟩

theorem encode_decodeReserved (idx : BitVec 6) (lo : BitVec 2) (data : Word) (h : 16 ≤ idx.toNat) :
    ((decodeWrite idx lo data).wellFormed = true ∧ encode (decodeWrite idx lo data) = encodeWrite idx lo data)
    ∧ (decodeRead idx lo data).wellFormed = true ∧ encode (decodeRead idx lo data) = encodeRead idx lo data := by
  have := idx.isLt
  rw [decodeWrite_reserved h, decodeRead_reserved h, encodeWrite, encodeRead, ← high_append_rsvLow, high_eq_ofNat]
  by_cases h32 : idx.toNat < 32
  · simp only [h32, if_true, show idx.toNat / 16 = 1 by omega]; exact ⟨⟨rfl, rfl⟩, rfl, rfl⟩
  · by_cases h48 : idx.toNat < 48
    · simp only [h32, h48, if_true, if_false, show idx.toNat / 16 = 2 by omega]; exact ⟨⟨rfl, rfl⟩, rfl, rfl⟩
    · simp only [h32, h48, if_false, show idx.toNat / 16 = 3 by omega]; exact ⟨⟨rfl, rfl⟩, rfl, rfl⟩

/-- Each of the first 16 word indices has its own row in both columns of the decode table (30_encoding.md R104). -/
theorem encode_decode_index (idx : BitVec 6) (lo : BitVec 2) (data : Word) :
    ((decodeWrite idx lo data).wellFormed = true ∧ encode (decodeWrite idx lo data) = encodeWrite idx lo data)
    ∧ (decodeRead idx lo data).wellFormed = true ∧ encode (decodeRead idx lo data) = encodeRead idx lo data := by
  by_cases h : 16 ≤ idx.toNat
  · exact encode_decodeReserved idx lo data h
  · have hidx : idx = BitVec.ofNat 6 idx.toNat := by simp
    generalize idx.toNat = k at *
    subst hidx
    rcases Nat.lt_trichotomy k 3 with hbelow | rfl | habove
    · interval_cases k <;> exact ⟨⟨rfl, rfl⟩, rfl, rfl⟩
    · exact ⟨encode_decodeCmd lo data, rfl, rfl⟩
    · interval_cases k <;> exact ⟨⟨rfl, rfl⟩, rfl, rfl⟩

/-- Settles O3: a register word is its fields, whose row encodes them back; the other formats' words are few. -/
theorem encodeOfDecode : Obligations.EncodeOfDecode := by
  rintro (w | op | sel)
  case reg =>
    rw [fRegWord_fields w]
    obtain ⟨hwrite, hread⟩ := encode_decode_index (fRegIndex w) (fRegLow w) (fRegData w)
    cases fRegWrite w
    · exact decode_fRegRead (fRegIndex w) (fRegLow w) (fRegData w) ▸ hread
    · exact decode_fRegWrite (fRegIndex w) (fRegLow w) (fRegData w) ▸ hwrite
  case row => revert op; decide
  case step => revert sel; decide

/-- Settles O1: the listed words, one by one. -/
theorem listedWordsDecode : Obligations.ListedWordsDecode := by
  unfold Obligations.ListedWordsDecode
  decide

/-! ### The ignored fields -/

namespace Machine

theorem exec_decodeCmd_lo (lo lo' : BitVec 2) (data : Word) (s : State) :
    exec (decodeCmd lo data) s = exec (decodeCmd lo' data) s := by
  unfold decodeCmd
  split
  · rfl
  · split <;> rfl

/-- OFFSET[1:0] does not reach the state, in any row of the decode table. -/
theorem exec_decode_lo (idx : BitVec 6) (lo lo' : BitVec 2) (data : Word) (s : State) :
    exec (decodeWrite idx lo data) s = exec (decodeWrite idx lo' data) s
    ∧ exec (decodeRead idx lo data) s = exec (decodeRead idx lo' data) s := by
  by_cases h : 16 ≤ idx.toNat
  · simp only [exec_decodeWrite_reserved h, exec_decodeRead_reserved h, and_self]
  · have hidx : idx = BitVec.ofNat 6 idx.toNat := by simp
    generalize idx.toNat = k at *
    subst hidx
    rcases Nat.lt_trichotomy k 3 with hbelow | rfl | habove
    · interval_cases k <;> exact ⟨rfl, rfl⟩
    · exact ⟨exec_decodeCmd_lo lo lo' data s, rfl⟩
    · interval_cases k <;> exact ⟨rfl, rfl⟩

/-- The DATA of a read does not reach the state. -/
theorem exec_decodeRead_data (idx : BitVec 6) (lo : BitVec 2) (data data' : Word) (s : State) :
    exec (decodeRead idx lo data) s = exec (decodeRead idx lo data') s := by
  by_cases h : 16 ≤ idx.toNat
  · rw [exec_decodeRead_reserved h, exec_decodeRead_reserved h]
  · have hidx : idx = BitVec.ofNat 6 idx.toNat := by simp
    generalize idx.toNat = k at *
    subst hidx
    interval_cases k <;> rfl

/-- Settles O5: no instruction's meaning looks at OFFSET[1:0], and none of a read's at DATA. -/
theorem ignoredBitsHaveNoEffect : Obligations.IgnoredBitsHaveNoEffect := by
  refine ⟨fun w idx lo lo' data s => ?lowBits, fun off data data' s => ?readData⟩
  case lowBits =>
    obtain ⟨hwrite, hread⟩ := exec_decode_lo idx lo lo' data s
    obtain rfl | rfl : w = 0#1 ∨ w = 1#1 := by revert w; decide
    · rw [decode_fRegRead, decode_fRegRead, hread]
    · rw [decode_fRegWrite, decode_fRegWrite, hwrite]
  case readData =>
    rw [offset_eq_regOffset off, decode_fRegRead, decode_fRegRead]
    exact exec_decodeRead_data _ _ data data' s

/-! ### The word of STATUS -/

/-- The one-bit fields of STATUS, from bit 0 on (10_state.md R33). -/
theorem statusWord_flags (t : Status) :
    t.word.getLsbD 0 = t.busy ∧ t.word.getLsbD 1 = t.done ∧ t.word.getLsbD 2 = t.err ∧ t.word.getLsbD 3 = t.cmdIgnored
    ∧ t.word.getLsbD 4 = t.phase := by
  simp only [Status.word, BitVec.getLsbD_append]
  simp

/-- Settles O12: the flags, and then each wider field bit by bit. -/
theorem statusWordLayout : Obligations.StatusWordLayout := by
  intro t
  obtain ⟨hbusy, hdone, herr, hign, hphase⟩ := statusWord_flags t
  refine ⟨hbusy, hdone, herr, hign, hphase, ?_, ?_, ?_, ?_, ?_⟩
  all_goals
    refine BitVec.eq_of_getLsbD_eq fun i hi => ?_
    rw [BitVec.getLsbD_extractLsb', Status.word]
    simp only [BitVec.getLsbD_append]
    interval_cases i <;> simp

end Machine
end Sys2Proof
end

section
/-! SUPPORT. Everything an instruction and a host action can do to the state, once, and what follows for single fields: which
instruction changes what, what a refused run keeps, and the canonical form of memory. -/

namespace Sys2Proof.Machine

/-! ### Everything an instruction can do -/

/-- Where a unit's lanes go: an even unit's to the three planes, an odd one's to luma alone (40_even_row_unpacker.md R131,
41_odd_row_unpacker.md R151). -/
def unitRoute : Bool → State → List Byte → UnitWrites
  | true => evenWrites
  | false => oddWrites

/-- A unit operation is a run of one unit. -/
theorem unitStep_eq_runUnits (n : Nat) (route : State → List Byte → UnitWrites) (s : State) :
    unitStep n route s = runUnits n route 1 s := by
  simp only [runUnits]
  cases unitStep n route s <;> rfl

/-- The ways in which an instruction can lead to a next state. -/
inductive InstrEffect : Instr → State → State → Prop
  | nothing (i : Instr) (s : State) : InstrEffect i s s
  | answer {i : Instr} (hi : isRead i = true) (v : Word) (s : State) : InstrEffect i s (respond v s)
  | control (lo : BitVec 2) (data : Word) (s : State) :
      InstrEffect (.wrCtrl lo data) s { s with irqEn := data.getLsbD 0 }
  | config {i : Instr} (hi : isConfigWrite i = true) (f : ConfigRegs) (s : State) : InstrEffect i s (writeConfig f s)
  | ignore {i : Instr} (hi : isCommand i = true) (s : State) : InstrEffect i s (ignoreCommand s)
  | start (lo : BitVec 2) {s : State} (hb : s.status.busy = false) : InstrEffect (.start lo) s (acceptStart s)
  | clear (lo : BitVec 2) {s : State} (hb : s.status.busy = false) : InstrEffect (.clear lo) s (acceptClear s)
  | unpack {i : Instr} (hi : isUnpack i = true) {n k : Nat} {chroma : Bool} {s t : State}
      (h : runUnits n (unitRoute chroma) k s = .next t) : InstrEffect i s t
  | evenEnd (vec : Bool) (s : State) : InstrEffect (.rowAdvanceEven vec) s (converterEffect advanceEven s)
  | oddEnd (vec : Bool) (s : State) : InstrEffect (.rowAdvanceOdd vec) s (converterEffect advanceOdd s)

theorem exec_effect {i : Instr} {s t : State} (h : exec i s = .next t) : InstrEffect i s t := by
  cases i with
  | start lo =>
    by_cases hb : s.status.busy = true
    · obtain rfl := Host.Outcome.next.inj ((congrArg Host.Outcome.next (if_pos hb)).symm.trans h)
      exact .ignore rfl s
    · rw [exec_start_of_idle (Bool.eq_false_of_not_eq_true hb)] at h
      obtain rfl := Host.Outcome.next.inj h
      exact .start lo (Bool.eq_false_of_not_eq_true hb)
  | clear lo =>
    by_cases hb : s.status.busy = true
    · rw [exec_clear_of_busy hb] at h
      obtain rfl := Host.Outcome.next.inj h
      exact .ignore rfl s
    · rw [exec_clear_of_idle (Bool.eq_false_of_not_eq_true hb)] at h
      obtain rfl := Host.Outcome.next.inj h
      exact .clear lo (Bool.eq_false_of_not_eq_true hb)
  | ignoredOp lo => obtain rfl := Host.Outcome.next.inj h; exact .ignore rfl s
  | ignoredRsv lo data => obtain rfl := Host.Outcome.next.inj h; exact .ignore rfl s
  | wrCtrl lo data => obtain rfl := Host.Outcome.next.inj h; exact .control lo data s
  | wrSrcBase lo data | wrLumaBase lo data | wrUBase lo data | wrVBase lo data | wrStride lo data | wrHeight lo data =>
    obtain rfl := Host.Outcome.next.inj h
    exact .config rfl _ s
  | groupEven | blockEven => exact .unpack rfl (chroma := true) ((unitStep_eq_runUnits ..).symm.trans h)
  | groupOdd | blockOdd => exact .unpack rfl (chroma := false) ((unitStep_eq_runUnits ..).symm.trans h)
  | rowEven => exact .unpack rfl (chroma := true) h
  | rowOdd => exact .unpack rfl (chroma := false) h
  | rowAdvanceEven vec => obtain rfl := Host.Outcome.next.inj h; exact .evenEnd vec s
  | rowAdvanceOdd vec => obtain rfl := Host.Outcome.next.inj h; exact .oddEnd vec s
  | nop lo | wrId lo data | wrCaps lo data | wrStatus lo data | wrSrcPtr lo data | wrLumaPtr lo data | wrUPtr lo data
  | wrVPtr lo data | wrPairCnt lo data | wrRsv40 low data | wrRsv80 low data | wrRsvC0 low data | rowIdle | rowRsv
  | stepIdle e p v =>
    obtain rfl := Host.Outcome.next.inj h
    exact .nothing _ s
  | _ => obtain rfl := Host.Outcome.next.inj h; exact .answer rfl _ s

/-! ### What every converter step keeps -/

theorem OnlyRecordsKept.refl (s : State) : OnlyRecordsKept s s := ⟨rfl, rfl, rfl, rfl, rfl, rfl, rfl, rfl, id⟩

theorem OnlyRecordsKept.trans {s t u : State} (h : OnlyRecordsKept s t) (h' : OnlyRecordsKept t u) :
    OnlyRecordsKept s u := by
  obtain ⟨hbuild, hrefused, hconv, hdirty, hunread, hstale, hsched, hdata, hwf⟩ := h
  obtain ⟨hbuild', hrefused', hconv', hdirty', hunread', hstale', hsched', hdata', hwf'⟩ := h'
  exact ⟨hbuild'.trans hbuild, hrefused'.trans hrefused, hconv'.trans hconv, hdirty'.trans hdirty, hunread'.trans hunread,
    hstale'.trans hstale, hsched'.trans hsched, hdata'.trans hdata, hwf' ∘ hwf⟩

@[simp] theorem undefinedBytes_length (draw what n : Nat) : (undefinedBytes draw what n).length = n := by
  simp [undefinedBytes]

theorem onlyRecordsKept_refusedState (s : State) : OnlyRecordsKept s (refusedState s) :=
  ⟨rfl, rfl, rfl, rfl, rfl, rfl, rfl, by simp, refusedState_wf⟩

theorem onlyRecordsKept_unitDone (n : Nat) (d : List Byte) (ws : UnitWrites) (s : State) :
    OnlyRecordsKept s (unitDone n d ws s) :=
  ⟨rfl, rfl, rfl, rfl, rfl, rfl, rfl, rfl, Memory.writeAll_wf ws⟩

theorem onlyRecordsKept_converterEffect {f : State → State} {s : State} (hf : OnlyRecordsKept s (f s)) :
    OnlyRecordsKept s (converterEffect f s) := by
  rcases converterEffect_cases f s with ⟨-, e⟩ | ⟨-, e⟩ <;> rw [e]
  · exact hf
  · exact onlyRecordsKept_refusedState s

/-- A run of units keeps the records, in a refused run too. -/
theorem runUnits_records {n k : Nat} {route : State → List Byte → UnitWrites} {s t : State}
    (h : runUnits n route k s = .next t) : OnlyRecordsKept s t :=
  runUnits_keeps (OnlyRecordsKept s)
    (fun _ hu => hu.trans (onlyRecordsKept_converterEffect (onlyRecordsKept_unitDone ..))) k s t (.refl s) h

/-- In a run that is not refused a run of units leaves everything but memory, `stage`, `col` and the port. -/
theorem runUnits_unchanged {n k : Nat} {route : State → List Byte → UnitWrites} {s t : State} (hr : s.refused = none)
    (h : runUnits n route k s = .next t) :
    t = { s with
      mem := t.mem, stage := t.stage, work := { s.work with col := t.work.col }, memPort := t.memPort } := by
  obtain ⟨j, -, e⟩ := runUnits_frame k s t hr h
  rw [e]

theorem converterEffect_of_not_refused {s : State} (hr : s.refused = none) (f : State → State) :
    converterEffect f s = f s := by
  simp [converterEffect, hr]

theorem converterEffect_of_refused {s : State} (hr : s.refused ≠ none) (f : State → State) :
    converterEffect f s = refusedState s := by
  rcases converterEffect_cases f s with ⟨h, -⟩ | ⟨-, e⟩
  · exact absurd h hr
  · exact e

/-! ### Which instructions change what -/

/-- START's effect on the fields that it can change; the other fields stay. -/
theorem acceptStart_frame (s : State) :
    acceptStart s = { s with
      work := (acceptStart s).work, status := (acceptStart s).status, conv := (acceptStart s).conv,
      refused := (acceptStart s).refused } := by
  unfold acceptStart frameStart
  dsimp only
  split
  · split <;> split <;> rfl
  · rfl

/-- Settles O15: each way in which an instruction can act changes only what its instructions may. -/
theorem onlyTheseChangeEachState : Obligations.OnlyTheseChangeEachState := by
  intro i s t h
  cases exec_effect h with
  | nothing => simp
  | answer hi v => simp [hi]
  | control lo data => simp
  | config hi f => simp [hi]
  | ignore hi => simp [hi]
  | start lo hb => rw [acceptStart_frame]; simp [isCommand]
  | clear lo hb => simp [isCommand]
  | unpack hi hrun =>
    obtain ⟨hbuild, hrefused, hconv, hdirty, hunread, hstale, hsched, -, -⟩ := runUnits_records hrun
    by_cases hr : s.refused = none
    · rw [runUnits_unchanged hr hrun]; simp [hi]
    · simp [hi, hr, hbuild, hrefused, hconv, hdirty, hunread, hstale, hsched]
  | evenEnd vec =>
    by_cases hr : s.refused = none
    · rw [converterEffect_of_not_refused hr]; simp [isAdvance]
    · rw [converterEffect_of_refused hr]; simp [isAdvance, hr]
  | oddEnd vec =>
    by_cases hr : s.refused = none
    · rw [converterEffect_of_not_refused hr]; simp [isAdvance]
    · rw [converterEffect_of_refused hr]; simp [isAdvance, hr]

end Sys2Proof.Machine
end

section
/-! SUPPORT. The instructions that a step can fetch, and the single steps of the machine: register transactions, idle codes,
row ends, and the form of memory. -/

namespace Sys2Proof.Machine

/-! ### What is fetched -/

/-- The instructions of the register port: neither unpackers nor row ends. -/
def onRegisterPort (i : Instr) : Bool := !isUnpack i && !isAdvance i

theorem onRegisterPort_decodeCmd (lo : BitVec 2) (data : Word) : onRegisterPort (decodeCmd lo data) = true := by
  unfold decodeCmd
  split
  · rfl
  · split <;> rfl

theorem onRegisterPort_decode_index (idx : BitVec 6) (lo : BitVec 2) (data : Word) :
    onRegisterPort (decodeWrite idx lo data) = true ∧ onRegisterPort (decodeRead idx lo data) = true := by
  by_cases h : 16 ≤ idx.toNat
  · rw [decodeWrite_reserved h, decodeRead_reserved h]
    split
    · exact ⟨rfl, rfl⟩
    · split <;> exact ⟨rfl, rfl⟩
  · have hidx : idx = BitVec.ofNat 6 idx.toNat := by simp
    generalize idx.toNat = k at *
    subst hidx
    rcases Nat.lt_trichotomy k 3 with hbelow | rfl | habove
    · interval_cases k <;> exact ⟨rfl, rfl⟩
    · exact ⟨onRegisterPort_decodeCmd lo data, rfl⟩
    · interval_cases k <;> exact ⟨rfl, rfl⟩

/-- A register word is never an operation of the converter (30_encoding.md R104). -/
theorem onRegisterPort_decode (w : BitVec 41) : onRegisterPort (decode (.reg w)) = true := by
  obtain ⟨hwrite, hread⟩ := onRegisterPort_decode_index (fRegIndex w) (fRegLow w) (fRegData w)
  simp only [decode, decodeReg]
  split
  · exact hwrite
  · exact hread

theorem onRegisterPort_iff (i : Instr) : onRegisterPort i = true ↔ isUnpack i = false ∧ isAdvance i = false := by
  simp [onRegisterPort]

/-- An instruction of the register port always answers a next state (43_host_interface.md R200). -/
theorem exec_of_onRegisterPort {i : Instr} (hi : onRegisterPort i = true) (s : State) : ∃ u, exec i s = .next u := by
  cases i with
  | groupEven | blockEven | groupOdd | blockOdd | rowEven | rowOdd => exact absurd hi (by decide)
  | _ => exact ⟨_, rfl⟩

/-- The selector names a unit operation only when BUSY = 1 and the row is not done, and a row end only when it is
(30_encoding.md R107). -/
theorem stepOfBits_unpack {busy isEnd phase vec : Bool} (h : isUnpack (stepOfBits busy isEnd phase vec) = true) :
    busy = true ∧ isEnd = false := by
  revert h; revert busy isEnd phase vec; decide

theorem stepOfBits_advance {busy isEnd phase vec : Bool} (h : isAdvance (stepOfBits busy isEnd phase vec) = true) :
    busy = true ∧ isEnd = true := by
  revert h; revert busy isEnd phase vec; decide

theorem stepOfBits_rowEnd (phase vec : Bool) :
    stepOfBits true true phase vec = if phase then .rowAdvanceOdd vec else .rowAdvanceEven vec := by
  cases phase <;> rfl

/-- The unit that the selector names: of the build's size, with the route of the row's parity. -/
theorem exec_unit (phase : Bool) (st : Strategy) (s : State) :
    exec (stepOfBits true false phase st.isVector) s = unitStep st.unitBytes (unitRoute (!phase)) s := by
  cases phase <;> cases st <;> rfl

/-- The row that the row code names: the units left, with the route of the row's parity. -/
theorem exec_row (phase : Bool) (s : State) :
    exec (decode (.row (if phase then 0b10#2 else 0b01#2))) s
      = runUnits s.build.strategy.unitBytes (unitRoute (!phase)) (unitsLeft s) s := by
  cases phase <;> rfl

/-- How an operation of a unit or of a row runs: the units, of the build's size, of the row in progress; one of them, when
the row is not done, or all that are left. -/
theorem fetch_unpack {s s' : State} {i : Instr} (hf : fetch s = (.instr i, s')) (hi : isUnpack i = true) :
    s.status.busy = true ∧ ∃ k, (k = unitsLeft s ∨ (k = 1 ∧ rowDone s = false))
      ∧ exec i s' = runUnits s.build.strategy.unitBytes (unitRoute (!s.status.phase)) k s' := by
  have hs' := fetch_state hf
  rcases fetch_instr hf with ⟨w, rfl⟩ | rfl | rfl | rfl
  · obtain ⟨hno, -⟩ := (onRegisterPort_iff _).mp (onRegisterPort_decode w)
    exact absurd (hno.symm.trans hi) Bool.false_ne_true
  · rw [converterInstr_eq] at hi ⊢
    obtain ⟨hb, hd⟩ := stepOfBits_unpack hi
    rw [hb, hd, exec_unit, unitStep_eq_runUnits]
    exact ⟨rfl, 1, .inr ⟨rfl, rfl⟩, rfl⟩
  · rw [rowOp_eq] at hi ⊢
    cases hb : s.status.busy
    · rw [hb] at hi; exact absurd hi Bool.false_ne_true
    · refine ⟨rfl, unitsLeft s, .inl rfl, ?_⟩
      rw [if_pos rfl, exec_row, hs']
      rfl
  · exact absurd hi Bool.false_ne_true

/-- When a row end is fetched: the row is done, and PHASE names the end. -/
theorem fetch_advance {s s' : State} {i : Instr} (hf : fetch s = (.instr i, s')) (hi : isAdvance i = true) :
    s.status.busy = true ∧ rowDone s = true
    ∧ ∃ v, i = if s.status.phase then .rowAdvanceOdd v else .rowAdvanceEven v := by
  rcases fetch_instr hf with ⟨w, rfl⟩ | rfl | rfl | rfl
  · obtain ⟨-, hno⟩ := (onRegisterPort_iff _).mp (onRegisterPort_decode w)
    exact absurd (hno.symm.trans hi) Bool.false_ne_true
  · rw [converterInstr_eq] at hi ⊢
    obtain ⟨hb, hd⟩ := stepOfBits_advance hi
    exact ⟨hb, hd, _, by rw [hb, hd, stepOfBits_rowEnd]⟩
  · rw [rowOp_eq] at hi
    cases hb : s.status.busy <;> cases hp : s.status.phase <;> rw [hb] at hi <;>
      exact absurd (by rw [hp] at hi; exact hi) Bool.false_ne_true
  · exact absurd hi Bool.false_ne_true

/-! ### Reserved rows, CTRL, configuration registers and ignored commands -/

/-- Settles O7: reads of the reserved rows respond 0, writes do nothing. -/
theorem reservedRowsComplete : Obligations.ReservedRowsComplete := fun _ _ _ => ⟨rfl, rfl, rfl, rfl, rfl, rfl⟩

/-- The word of CTRL holds the bit 0 that was written. -/
theorem ctrlBit_eq_and_one (data : Word) : (if data.getLsbD 0 then 1#32 else 0#32) = data &&& 1#32 := by
  refine BitVec.eq_of_getLsbD_eq fun i hi => ?_
  rw [BitVec.getLsbD_and]
  cases i with
  | zero => cases data.getLsbD 0 <;> rfl
  | succ i => cases data.getLsbD 0 <;> simp

/-- Settles O13: the write stores bit 0, and the word of CTRL is that bit. -/
theorem ctrlWriteStoresIrqEnable : Obligations.CtrlWriteStoresIrqEnable := by
  intro lo lo' data data' s
  refine ⟨rfl, ?_⟩
  rw [exec_rdCtrl, ctrlWord_eq, ctrlBit_eq_and_one]
  rfl

/-- Settles O14: each configuration write is `writeConfig` of its own register. -/
theorem configWritesStored : Obligations.ConfigWritesStored := fun _ _ _ => ⟨rfl, rfl, rfl, rfl, rfl, rfl⟩

/-- START while BUSY is an ignored command (43_host_interface.md R206, R208). -/
theorem exec_start_of_busy {s : State} (hb : s.status.busy = true) (lo : BitVec 2) :
    exec (.start lo) s = .next (ignoreCommand s) :=
  congrArg Host.Outcome.next (if_pos hb)

/-- Settles O17: the four cases are all `ignoreCommand`, which `irq` does not look at. -/
theorem ignoredCommandsSetOnlyCmdIgnored : Obligations.IgnoredCommandsSetOnlyCmdIgnored := fun lo data s =>
  ⟨fun hb => exec_start_of_busy hb lo, fun hb => exec_clear_of_busy hb lo, exec_ignoredRsv lo data s,
    exec_ignoredOp lo s, rfl⟩

/-! ### Idle codes, row ends and the end of a run -/

theorem exec_stepIdle (e p v : Bool) (s : State) : exec (.stepIdle e p v) s = .next s := rfl

@[simp] theorem hostLearns_stepIdle (e p v : Bool) (s : State) : hostLearns (.stepIdle e p v) s = s := rfl

/-- A machine that is idle with no turn left stays as it is. -/
theorem step_of_idle {s : State} (hr : s.refused = none) (hs : s.schedule = []) (hb : s.status.busy = false) :
    step s = .next s := by
  have hf : fetch s = (.instr (.stepIdle (rowDone s) s.status.phase s.build.strategy.isVector), s) := by
    unfold fetch
    rw [hs, converterInstr_eq, hb]
    rfl
  rw [step_of_exec hf (exec_stepIdle ..), settle_none hr, hostLearns_stepIdle]

/-- Settles O36: idle codes are no steps; a run has ended as `runEnded_iff` says, and its observation is of the state as it
stands, or, in a refused run, of a free one that carries the mark. -/
theorem idleCodesHaveNoEffect : Obligations.IdleCodesHaveNoEffect := by
  refine ⟨fun s e p v => ⟨exec_rowIdle s, exec_rowRsv s, exec_stepIdle e p v s⟩, fun s => ⟨fun hr => ?running, fun hr => ?refused⟩⟩
  case running =>
    have hend : runEnded s = true ↔ s.schedule = [] ∧ s.status.busy = false := by
      rw [runEnded_iff]
      exact or_iff_right (not_not_intro hr)
    refine ⟨hend, fun h => ?ended, fun hb => ?busy⟩
    case ended =>
      obtain ⟨hs, hb⟩ := hend.mp h
      exact ⟨step_of_idle hr hs hb, by rw [observed, if_pos h, settle_none hr]⟩
    case busy =>
      refine if_neg fun h => ?_
      obtain ⟨-, hno⟩ := hend.mp h
      exact absurd (hb.symm.trans hno) Bool.noConfusion
  case refused =>
    have hend : runEnded s = true := (runEnded_iff s).mpr (.inl hr)
    refine ⟨hend, observation (settle s s), if_pos hend, ?_⟩
    show (settle s s).refused.isSome = true
    rwa [settle_refused, Option.isSome_iff_ne_none]

/-- Settles O37: in a run that is not refused ROW_ADVANCE_EVEN is `advanceEven`. -/
theorem rowAdvanceEvenMovesPointers : Obligations.RowAdvanceEvenMovesPointers := fun _ _ hr =>
  congrArg Host.Outcome.next (converterEffect_of_not_refused hr advanceEven)

theorem lastPair_iff (s : State) : lastPair s = true ↔ s.work.pairCnt + 1#32 = s.work.pairsL := beq_iff_eq

theorem outputsToInvalidate_of_coherent {s : State} (h : s.build.coherent = true) : outputsToInvalidate s = [] := by
  unfold outputsToInvalidate
  cases s.conv <;> simp [h]

theorem outputsToInvalidate_of_not_coherent {s : State} {c : Conversion} (h : s.build.coherent = false)
    (hc : s.conv = some c) : outputsToInvalidate s = [c.lumaRegion, c.uRegion, c.vRegion] := by
  simp [outputsToInvalidate, hc, h]

theorem exec_rowAdvanceOdd {s : State} (hr : s.refused = none) (vec : Bool) :
    exec (.rowAdvanceOdd vec) s = .next (advanceOdd s) :=
  congrArg Host.Outcome.next (converterEffect_of_not_refused hr advanceOdd)

/-- Settles O38: in a run that is not refused ROW_ADVANCE_ODD is `advanceOdd`, whose two cases are those of the last pair. -/
theorem rowAdvanceOddCountsPair : Obligations.RowAdvanceOddCountsPair := by
  intro vec s hr
  refine ⟨fun hp => ?more, fun hp => ?last, outputsToInvalidate_of_coherent,
    fun c => outputsToInvalidate_of_not_coherent⟩
  case more =>
    rw [exec_rowAdvanceOdd hr, advanceOdd, Bool.eq_false_of_not_eq_true (mt (lastPair_iff s).mp hp)]
    rfl
  case last =>
    rw [exec_rowAdvanceOdd hr, advanceOdd, (lastPair_iff s).mpr hp]
    rfl

/-! ### Reset -/

theorem statusWord_reset : Status.reset.word = 0#32 := by decide

theorem ctrlWord_of_disabled {s : State} (h : s.irqEn = false) : ctrlWord s = 0#32 := by
  rw [ctrlWord_eq, h]; rfl

/-- Settles O42: every register of a reset state is 0. -/
theorem resetStateRegisters : Obligations.ResetStateRegisters := fun _ =>
  ⟨statusWord_reset, ctrlWord_of_disabled rfl, rfl, rfl, rfl, rfl⟩

/-- Settles O41: the reset event is the reset state of the build with what the event keeps; only the stale regions depend on
BUSY, COHERENT and the conversion that is abandoned. -/
theorem resetEventResetsRegisters : Obligations.ResetEventResetsRegisters := by
  intro s lo data
  refine ⟨statusWord_reset, ctrlWord_of_disabled rfl, rfl, rfl, rfl, rfl, rfl, rfl, rfl, rfl, rfl, rfl, rfl, rfl, rfl, rfl, fun h => ?kept,
    fun c hb hcoh hc => ?stale⟩
  case kept =>
    rw [hostStep, resetEvent_stale]
    rcases h with hb | hcoh | hc
    · rw [hb]; rfl
    · rw [outputsToInvalidate_of_coherent hcoh]; exact ite_self _
    · rw [outputsToInvalidate, hc]; exact ite_self _
  case stale => rw [hostStep, resetEvent_stale, if_pos hb, outputsToInvalidate_of_not_coherent hcoh hc]

/-! ### A step and its turn -/

theorem fetch_of_reg {s : State} {w : BitVec 41} {rest : List Turn} (hs : s.schedule = .reg w :: rest) :
    fetch s = (.instr (decode (.reg w)), { s with schedule := rest }) := by
  unfold fetch; rw [hs]; rfl

theorem fetch_of_converter {s : State} {rest : List Turn} (hs : s.schedule = .converter :: rest) :
    fetch s = (.instr (converterInstr s), { s with schedule := rest }) := by
  unfold fetch; rw [hs]; rfl

theorem fetch_of_nil {s : State} (hs : s.schedule = []) : fetch s = (.instr (converterInstr s), s) := by
  unfold fetch; rw [hs]

theorem fetch_of_row {s : State} {op : BitVec 2} {rest : List Turn} (hs : s.schedule = .row op :: rest) :
    fetch s = (if op = rowOp s ∨ op = 0b11#2 then .instr (decode (.row op)) else .notDriven op,
      { s with schedule := rest }) := by
  unfold fetch; rw [hs]; rfl

theorem fetch_of_host {s : State} {a : HostAction} {rest : List Turn} (hs : s.schedule = .host a :: rest) :
    fetch s = (.action a, { s with schedule := rest }) := by
  unfold fetch; rw [hs]; rfl

theorem step_of_instr {s s' : State} {i : Instr} (hf : fetch s = (.instr i, s')) :
    step s = finishInstr s i (exec i s') := by
  unfold step; rw [hf]

theorem step_of_action {s s' : State} {a : HostAction} (hf : fetch s = (.action a, s')) :
    step s = .next (settle s (hostStep a s')) := by
  unfold step; rw [hf]

theorem step_of_notDriven {s s' : State} {op : BitVec 2} (hf : fetch s = (.notDriven op, s')) :
    step s = .refused (.rowOpNotDriven op) := by
  unfold step; rw [hf]

/-- The host learns something from a read of STATUS only. -/
theorem hostLearns_of_not_rdStatus {i : Instr} (hi : ∀ lo data, i ≠ .rdStatus lo data) (s : State) :
    hostLearns i s = s := by
  unfold hostLearns readsDone
  split
  · exact absurd rfl (hi _ _)
  · rfl

theorem finishInstr_of_not_refused {s : State} (hr : s.refused = none) {i : Instr}
    (hi : ∀ lo data, i ≠ .rdStatus lo data) (o : Host.Outcome State Fault Refusal) : finishInstr s i o = o := by
  cases o with
  | next t => simp only [finishInstr, settle_none hr, hostLearns_of_not_rdStatus hi]
  | fault r => rfl
  | refused r => rfl

theorem settle_of_refused {s : State} (hr : s.refused ≠ none) (t : State) : settle s t = refusedState t :=
  if_pos (Option.isSome_iff_ne_none.mpr hr)

/-- Settles O39: the fetch of each kind of turn, and then what a step adds around the instruction or the action. -/
theorem stepRunsDecodedInstruction : Obligations.StepRunsDecodedInstruction := by
  intro s rest
  refine ⟨fun i w hwf hw hs => ?register, fun hs => step_of_instr (fetch_of_converter hs),
    fun hs => step_of_instr (fetch_of_nil hs), fun op hs hop => ?row, fun op hs h1 h2 => ?notDriven,
    fun a hs => step_of_action (fetch_of_host hs), fun word mask value pace hs hr => ?poll,
    fun i o hr hi => finishInstr_of_not_refused hr hi o, fun lo data t hr => ?status,
    fun i t hr => congrArg Host.Outcome.next (settle_of_refused hr _), fun t => ⟨fun hr => settle_none hr t, fun hr => settle_of_refused hr t⟩⟩
  case register =>
    have hi : decode (.reg w) = i := by rw [← hw]; exact decodeOfEncode i hwf
    rw [step_of_instr (fetch_of_reg hs), hi]
  case row =>
    have hf := fetch_of_row hs
    rw [if_pos hop] at hf
    exact step_of_instr hf
  case notDriven =>
    have hf := fetch_of_row hs
    rw [if_neg (not_or_intro h1 h2)] at hf
    exact step_of_notDriven hf
  case poll =>
    rw [step_of_action (fetch_of_host hs), settle_none hr]
    rcases pollAgain_cases word mask value pace { s with schedule := rest } with ⟨hv, e⟩ | ⟨hv, e⟩
    · exact ⟨fun _ => congrArg _ e, fun hn => absurd hv hn⟩
    · exact ⟨fun hn => absurd hn hv, fun _ => congrArg _ e⟩
  case status => rw [finishInstr, settle_none hr]; rfl

/-! ### Register transactions -/

@[simp] theorem hostLearns_mem (i : Instr) (s : State) : (hostLearns i s).mem = s.mem := by rw [hostLearns_frame]
@[simp] theorem hostLearns_work (i : Instr) (s : State) : (hostLearns i s).work = s.work := by rw [hostLearns_frame]
@[simp] theorem hostLearns_status (i : Instr) (s : State) : (hostLearns i s).status = s.status := by rw [hostLearns_frame]
@[simp] theorem hostLearns_build (i : Instr) (s : State) : (hostLearns i s).build = s.build := by rw [hostLearns_frame]
@[simp] theorem hostLearns_irqEn (i : Instr) (s : State) : (hostLearns i s).irqEn = s.irqEn := by rw [hostLearns_frame]
@[simp] theorem hostLearns_conv (i : Instr) (s : State) : (hostLearns i s).conv = s.conv := by rw [hostLearns_frame]
@[simp] theorem hostLearns_schedule (i : Instr) (s : State) : (hostLearns i s).schedule = s.schedule := by
  rw [hostLearns_frame]

theorem acceptStart_mem (s : State) : (acceptStart s).mem = s.mem := by rw [acceptStart_frame]

/-- An instruction of the register port leaves memory alone and, while BUSY, the working registers and BUSY. -/
theorem onRegisterPort_keeps {i : Instr} {s u : State} (hi : onRegisterPort i = true) (h : exec i s = .next u) :
    u.mem = s.mem ∧ (s.status.busy = true → u.work = s.work ∧ u.status.busy = true) := by
  obtain ⟨hno, hno'⟩ := (onRegisterPort_iff i).mp hi
  cases exec_effect h with
  | nothing => exact ⟨rfl, fun hb => ⟨rfl, hb⟩⟩
  | answer => exact ⟨rfl, fun hb => ⟨rfl, hb⟩⟩
  | control => exact ⟨rfl, fun hb => ⟨rfl, hb⟩⟩
  | config => exact ⟨rfl, fun hb => ⟨rfl, hb⟩⟩
  | ignore => exact ⟨rfl, fun hb => ⟨rfl, hb⟩⟩
  | start lo hidle => exact ⟨acceptStart_mem s, fun hb => absurd (hb.symm.trans hidle) Bool.noConfusion⟩
  | clear lo hidle => exact ⟨rfl, fun hb => absurd (hb.symm.trans hidle) Bool.noConfusion⟩
  | unpack hunpack => exact absurd (hno.symm.trans hunpack) Bool.noConfusion
  | evenEnd | oddEnd => exact absurd hno' Bool.noConfusion

/-- Settles O40: a register word decodes to an instruction of the register port, which answers a next state. -/
theorem transactionsServedInEveryState : Obligations.TransactionsServedInEveryState := by
  intro s w rest hs
  have hport := onRegisterPort_decode w
  obtain ⟨u, hu⟩ := exec_of_onRegisterPort hport { s with schedule := rest }
  obtain ⟨hmem, hbusy⟩ := onRegisterPort_keeps hport hu
  have hsched : u.schedule = rest := by
    obtain ⟨-, -, -, -, -, -, -, -, -, -, -, -, -, h⟩ := onlyTheseChangeEachState _ _ _ hu
    exact h
  refine ⟨u, _, hu, step_of_exec (fetch_of_reg hs) hu, ?_, hmem, hbusy, fun hr => ?_⟩
  · rw [settle_schedule, hostLearns_schedule, hsched]
  · rw [settle_none hr, hostLearns_mem, hostLearns_work, hostLearns_status]
    exact ⟨hmem, hbusy⟩

/-! ### The form of memory -/

theorem converterEffect_wf {f : State → State} {s : State} (hf : (f s).mem = s.mem) (hm : s.mem.wf) :
    (converterEffect f s).mem.wf := by
  rcases converterEffect_cases f s with ⟨-, e⟩ | ⟨-, e⟩ <;> rw [e]
  · rwa [hf]
  · exact refusedState_wf hm

theorem exec_wf {i : Instr} {s t : State} (h : exec i s = .next t) (hm : s.mem.wf) : t.mem.wf := by
  cases exec_effect h with
  | nothing => exact hm
  | answer => exact hm
  | control => exact hm
  | config => exact hm
  | ignore => exact hm
  | start => rwa [acceptStart_mem]
  | clear => exact hm
  | unpack _ hrun =>
    obtain ⟨-, -, -, -, -, -, -, -, hwf⟩ := runUnits_records hrun
    exact hwf hm
  | evenEnd => exact converterEffect_wf (advanceEven_mem s) hm
  | oddEnd => exact converterEffect_wf (advanceOdd_mem s) hm

theorem hostStep_wf (a : HostAction) {s : State} (hm : s.mem.wf) : (hostStep a s).mem.wf := by
  cases a with
  | memWrite x bytes =>
    have hw : (s.mem.writeBytes x bytes).wf := Memory.writeBytes_wf x bytes hm
    rcases hostWrite_cases x bytes s with ⟨-, e⟩ | ⟨-, e⟩ <;> rw [hostStep, e]
    · exact hw
    · exact Memory.writeAll_wf _ hw
  | memRead x n =>
    rcases hostRead_cases x n s with ⟨-, -, e⟩ | ⟨-, e⟩ <;> rw [hostStep, e]
    · exact hm
    · exact Memory.writeAll_wf _ hm
  | cacheClean x n => exact hm
  | cacheInvalidate x n => exact hm
  | reset => exact hm
  | pollAgain word mask value pace =>
    rcases pollAgain_cases word mask value pace s with ⟨-, e⟩ | ⟨-, e⟩ <;> rw [hostStep, e] <;> exact hm

theorem fetch_mem {s s' : State} {f : Fetched} (hf : fetch s = (f, s')) : s'.mem = s.mem := by
  rw [fetch_state hf]

/-- Settles O48: an instruction and a host action keep the form, and so do the free writes of a refused run. -/
theorem memoryFormKept : Obligations.MemoryFormKept := by
  intro s t hm h
  rcases step_next h with ⟨i, s', u, hf, he, rfl⟩ | ⟨a, s', hf, rfl⟩
  · refine settle_wf s ?_
    rw [hostLearns_mem]
    exact exec_wf he (by rwa [fetch_mem hf])
  · exact settle_wf s (hostStep_wf a (by rwa [fetch_mem hf]))

end Sys2Proof.Machine
end

section
/-! SUPPORT. START and its frame, the premises of a frame, and every way in which STATUS and IRQ_EN can change in a step that
the rules determine (43_host_interface.md section 2, 60_exceptions.md). -/

namespace Sys2Proof.Machine

/-! ### Everything a host action can do in a run that it does not refuse -/

/-- The effect of a host action that leaves the run not refused: bytes written outside the running conversion's regions; the
host's own records and turns; or the reset event. -/
inductive HostEffect : HostAction → State → State → Prop
  | write (a : Addr) (bytes : List Byte) {s t : State}
      (hout : ∀ k, k < bytes.length → ¬ HitsRunning s (a + BitVec.ofNat 32 k))
      (ht : t = { s with mem := s.mem.writeBytes a bytes, dirty := t.dirty }) : HostEffect (.memWrite a bytes) s t
  | records (a : HostAction) {s t : State}
      (ht : t = { s with
        hostData := t.hostData, draws := t.draws, dirty := t.dirty, stale := t.stale, schedule := t.schedule }) :
      HostEffect a s t
  | reset (s : State) : HostEffect .reset s (resetEvent s)

theorem hostStep_effect {a : HostAction} {s : State} (hr : (hostStep a s).refused = none) :
    HostEffect a s (hostStep a s) := by
  cases a with
  | memWrite x bytes =>
    rw [hostStep] at hr ⊢
    rcases hostWrite_cases x bytes s with ⟨hout, e⟩ | ⟨-, e⟩ <;> rw [e] at hr ⊢
    · exact .write x bytes hout rfl
    · exact absurd hr (Option.some_ne_none _)
  | memRead x n =>
    rw [hostStep] at hr ⊢
    rcases hostRead_cases x n s with ⟨-, -, e⟩ | ⟨-, e⟩ <;> rw [e] at hr ⊢
    · exact .records _ rfl
    · exact absurd hr (Option.some_ne_none _)
  | cacheClean x n => exact .records _ rfl
  | cacheInvalidate x n => exact .records _ rfl
  | reset => exact .reset s
  | pollAgain word mask value pace =>
    rw [hostStep]
    rcases pollAgain_cases word mask value pace s with ⟨-, e⟩ | ⟨-, e⟩ <;> rw [e] <;> exact .records _ rfl

/-- A step that the rules determine starts in a run that is not refused: it executes the fetched instruction and the host
learns what it read, or it does a host action that does not refuse the run. -/
theorem step_determinate {s t : State} (h : step s = .next t) (hd : Determinate s t) :
    s.refused = none
    ∧ ((∃ i s' u, fetch s = (.instr i, s') ∧ exec i s' = .next u ∧ t = hostLearns i u)
      ∨ (∃ a s', fetch s = (.action a, s') ∧ HostEffect a s' t)) := by
  have hr : s.refused = none := by
    rcases hd with ht | ⟨hs, -⟩
    · refine Option.eq_none_iff_forall_ne_some.mpr fun r hs => ?_
      exact absurd (ht.symm.trans (step_keeps_mark h hs)) (Option.some_ne_none r).symm
    · exact hs
  refine ⟨hr, ?_⟩
  rcases step_next h with ⟨i, s', u, hf, he, rfl⟩ | ⟨a, s', hf, rfl⟩
  · exact .inl ⟨i, s', u, hf, he, settle_none hr _⟩
  · refine .inr ⟨a, s', hf, ?_⟩
    rw [settle_none hr] at hd ⊢
    rcases hd with ht | ⟨-, lo, s'', hf'⟩
    · exact hostStep_effect ht
    · rw [hf] at hf'; cases hf'

/-- A step that ends in a run not refused is one that the rules determine. -/
theorem determinate_of_not_refused {s t : State} (ht : t.refused = none) : Determinate s t := .inl ht

/-! ### START -/

theorem acceptStart_status_of_pass {s : State} (hg : geomCause s.build.strategy s.cfg.stride s.cfg.height = 0#5) :
    (acceptStart s).status =
      { busy := true, done := false, err := false, cmdIgnored := s.status.cmdIgnored, phase := false, geomCause := 0#5,
        errCode := 0#4 } := by
  rw [acceptStart_of_pass hg, frameStart_status, latchFrame_status, clearOutcome_status]

theorem acceptStart_status_of_fail {s : State} (hg : geomCause s.build.strategy s.cfg.stride s.cfg.height ≠ 0#5) :
    (acceptStart s).status =
      { s.status with
        done := false, err := true, errCode := 0x1#4
        geomCause := geomCause s.build.strategy s.cfg.stride s.cfg.height } := by
  rw [acceptStart_of_fail hg, raiseInvalidGeometry_status, clearOutcome_status]

theorem acceptStart_irqEn (s : State) : (acceptStart s).irqEn = s.irqEn := by rw [acceptStart_frame]

theorem cacheDutiesShown_iff (s : State) (c : Conversion) :
    cacheDutiesShown s c = true ↔ s.build.coherent = true ∨ ∀ d ∈ s.dirty, d.disjoint c.srcRegion = true
      ∧ d.disjoint c.lumaRegion = true ∧ d.disjoint c.uRegion = true ∧ d.disjoint c.vRegion = true := by
  simp [cacheDutiesShown, and_assoc]

/-- Settles O19: an accepted START whose geometry passes is the frame start after the outcome is cleared; its mark follows the
premises and the cache duties. -/
theorem startLatchesFrame : Obligations.StartLatchesFrame := by
  intro lo s hb hg c clean
  have hstart : acceptStart s = frameStart (clearOutcome s) := acceptStart_of_pass hg
  have hmark : (acceptStart s).refused = (frameStart (clearOutcome s)).refused := congrArg State.refused hstart
  rw [frameStart_refused] at hmark
  have hshown : cacheDutiesShown (clearOutcome s) (latched (clearOutcome s)) = true ↔ s.build.coherent = true ∨ clean :=
    cacheDutiesShown_iff _ _
  have hprem : (latched (clearOutcome s)).premisesHold = c.premisesHold := rfl
  rw [hprem, clearOutcome_refused] at hmark
  refine ⟨acceptStart s, exec_start_of_idle hb lo, ?work, acceptStart_status_of_pass hg, ?conv, fun r hr => ?kept,
    fun hr => ⟨fun hp => ?overlap, fun hp hc => ?shown, fun hp hc hn => ?unshown⟩, acceptStart_frame s⟩
  case work => rw [hstart, frameStart_work]; rfl
  case conv => rw [hstart, frameStart_conv]; rfl
  case kept => exact acceptStart_keeps_mark hr
  case overlap => rw [hmark, hp, hr]; split <;> rfl
  case shown => rw [hmark, hp, hr, if_pos (hshown.mpr hc)]; rfl
  case unshown =>
    have hno : ¬ (s.build.coherent = true ∨ clean) := by simp [hc, hn]
    rw [hmark, hp, hr, if_neg (mt hshown.mp hno)]
    rfl

/-- Settles O22: the test of each pair of regions is about their addresses, and the sizes are compared as they stand. -/
theorem premisesAreDisjointRegions : Obligations.PremisesAreDisjointRegions := by
  intro c member s h src luma u v
  simp only [Conversion.premisesHold, Bool.and_eq_true, decide_eq_true_eq, Region.disjoint_iff, Region.contains_iff,
    forall_and]
  constructor
  · rintro ⟨⟨⟨⟨⟨⟨⟨⟨⟨hsl, hsu⟩, hsv⟩, hlu⟩, hlv⟩, huv⟩, hs⟩, hl⟩, hu⟩, -⟩
    exact ⟨⟨hsl, hsu, hsv, hlu, hlv, huv⟩, hs, hl, hu⟩
  · rintro ⟨⟨hsl, hsu, hsv, hlu, hlv, huv⟩, hs, hl, hu⟩
    exact ⟨⟨⟨⟨⟨⟨⟨⟨⟨hsl, hsu⟩, hsv⟩, hlu⟩, hlv⟩, huv⟩, hs⟩, hl⟩, hu⟩, hu⟩

/-! ### Every change of STATUS and IRQ_EN -/

/-- How a step that the rules determine can change STATUS and IRQ_EN, with the turn that does it. -/
inductive StatusChange (s t : State) : Prop
  | same (hs : t.status = s.status) (he : t.irqEn = s.irqEn)
  | control (lo : BitVec 2) (data : Word) (s' : State) (hf : fetch s = (.instr (.wrCtrl lo data), s'))
      (hs : t.status = s.status) (he : t.irqEn = data.getLsbD 0)
  | ignored (hs : t.status = { s.status with cmdIgnored := true }) (he : t.irqEn = s.irqEn)
  | startPass (lo : BitVec 2) (s' : State) (hf : fetch s = (.instr (.start lo), s')) (hb : s.status.busy = false)
      (hs : t.status = { busy := true, done := false, err := false, cmdIgnored := s.status.cmdIgnored, phase := false,
                         geomCause := 0#5, errCode := 0#4 }) (he : t.irqEn = s.irqEn)
  | startFail (lo : BitVec 2) (s' : State) (hf : fetch s = (.instr (.start lo), s')) (hb : s.status.busy = false)
      (hg : geomCause s.build.strategy s.cfg.stride s.cfg.height ≠ 0#5)
      (hs : t.status = { s.status with
        done := false, err := true, errCode := 0x1#4
        geomCause := geomCause s.build.strategy s.cfg.stride s.cfg.height }) (he : t.irqEn = s.irqEn)
  | clear (lo : BitVec 2) (s' : State) (hf : fetch s = (.instr (.clear lo), s')) (hb : s.status.busy = false)
      (hs : t.status = (acceptClear s).status) (he : t.irqEn = s.irqEn)
  | evenEnd (hs : t.status = { s.status with phase := true }) (he : t.irqEn = s.irqEn)
  | oddEnd (v : Bool) (s' : State) (hf : fetch s = (.instr (.rowAdvanceOdd v), s'))
      (hs : t.status = (advanceOdd s).status) (he : t.irqEn = s.irqEn)
  | reset (s' : State) (hf : fetch s = (.action .reset, s')) (hs : t.status = Status.reset) (he : t.irqEn = false)

theorem step_statusChange {s t : State} (h : step s = .next t) (hd : Determinate s t) : StatusChange s t := by
  obtain ⟨hr, ⟨i, s', u, hf, he, rfl⟩ | ⟨a, s', hf, he⟩⟩ := step_determinate h hd
  · have hs' := fetch_state hf
    have hr' : s'.refused = none := (fetch_refused hf).trans hr
    generalize s'.schedule = rest at hs'
    subst hs'
    have hstatus := hostLearns_status i u
    have hirq := hostLearns_irqEn i u
    cases exec_effect he with
    | nothing => exact .same hstatus hirq
    | answer => exact .same hstatus hirq
    | control lo data => exact .control lo data _ hf hstatus hirq
    | config => exact .same hstatus hirq
    | ignore => exact .ignored hstatus hirq
    | start lo hb =>
      have hirq' := hirq.trans (acceptStart_irqEn _)
      by_cases hg : geomCause s.build.strategy s.cfg.stride s.cfg.height = 0#5
      · exact .startPass lo _ hf hb (hstatus.trans (acceptStart_status_of_pass hg)) hirq'
      · exact .startFail lo _ hf hb hg (hstatus.trans (acceptStart_status_of_fail hg)) hirq'
    | clear lo hb => exact .clear lo _ hf hb hstatus hirq
    | unpack _ hrun =>
      have hs : u.status = s.status := by rw [runUnits_unchanged hr' hrun]
      have he : u.irqEn = s.irqEn := by rw [runUnits_unchanged hr' hrun]
      exact .same (hstatus.trans hs) (hirq.trans he)
    | evenEnd vec =>
      rw [converterEffect_of_not_refused hr'] at hstatus hirq ⊢
      exact .evenEnd hstatus hirq
    | oddEnd vec =>
      rw [converterEffect_of_not_refused hr'] at hstatus hirq ⊢
      exact .oddEnd vec _ hf hstatus hirq
  · have hs' := fetch_state hf
    generalize s'.schedule = rest at hs'
    subst hs'
    cases he with
    | write x bytes hout ht => rw [ht]; exact .same rfl rfl
    | records _ ht => rw [ht]; exact .same rfl rfl
    | reset => exact .reset _ hf rfl rfl

/-- Settles O18: the failing START writes what `acceptStart` writes; and of all changes of STATUS only that one sets ERR. -/
theorem startRaisesInvalidGeometry : Obligations.StartRaisesInvalidGeometry := by
  refine ⟨fun lo s hb hg => ?start, fun s t h hd herr => ?only⟩
  case start => rw [exec_start_of_idle hb, acceptStart_of_fail hg]; rfl
  case only =>
    cases step_statusChange h hd with
    | startFail lo s' hf hb hg hs he => exact .inr ⟨hb, hg, lo, s', hf⟩
    | startPass lo s' hf hb hs he => rw [hs] at herr; exact absurd herr Bool.false_ne_true
    | clear lo s' hf hb hs he => rw [hs] at herr; exact absurd herr Bool.false_ne_true
    | reset s' hf hs he => rw [hs] at herr; exact absurd herr Bool.false_ne_true
    | same hs he => rw [hs] at herr ⊢; exact .inl ⟨herr, rfl, rfl⟩
    | control lo data s' hf hs he => rw [hs] at herr ⊢; exact .inl ⟨herr, rfl, rfl⟩
    | ignored hs he => rw [hs] at herr ⊢; exact .inl ⟨herr, rfl, rfl⟩
    | evenEnd hs he => rw [hs] at herr ⊢; exact .inl ⟨herr, rfl, rfl⟩
    | oddEnd v s' hf hs he => rw [hs] at herr ⊢; exact .inl ⟨herr, rfl, rfl⟩

/-! ### The interrupt -/

theorem irq_iff (s : State) : irq s = true ↔ s.irqEn = true ∧ (s.status.done = true ∨ s.status.err = true) := by
  simp [irq]

theorem irq_congr {s t : State} (hdone : t.status.done = s.status.done) (herr : t.status.err = s.status.err)
    (he : t.irqEn = s.irqEn) : irq t = irq s := by
  rw [irq, irq, hdone, herr, he]

/-- Settles O23: a change of STATUS or IRQ_EN that is not one of the four listed leaves `irq` high when it was. -/
theorem irqFallsOnlyByHost : Obligations.IrqFallsOnlyByHost := by
  intro s t h hd hs ht
  have hsame (e : irq t = irq s) : False := by rw [e, hs] at ht; exact Bool.noConfusion ht
  cases step_statusChange h hd with
  | reset s' hf hst he => exact ⟨s', .inl hf⟩
  | startPass lo s' hf hb hst he => exact ⟨s', .inr (.inl ⟨lo, .inl hf, hb⟩)⟩
  | startFail lo s' hf hb hg hst he => exact ⟨s', .inr (.inl ⟨lo, .inl hf, hb⟩)⟩
  | clear lo s' hf hb hst he => exact ⟨s', .inr (.inl ⟨lo, .inr hf, hb⟩)⟩
  | control lo data s' hf hst he =>
    refine ⟨s', .inr (.inr ⟨lo, data, hf, Bool.eq_false_of_not_eq_true fun hbit => ?_⟩)⟩
    obtain ⟨hen, -⟩ := (irq_iff s).mp hs
    exact hsame (irq_congr (congrArg _ hst) (congrArg _ hst) (by rw [he, hbit, hen]))
  | same hst he => exact absurd (irq_congr (congrArg _ hst) (congrArg _ hst) he) hsame
  | ignored hst he => exact absurd (irq_congr (by rw [hst]) (by rw [hst]) he) hsame
  | evenEnd hst he => exact absurd (irq_congr (by rw [hst]) (by rw [hst]) he) hsame
  | oddEnd v s' hf hst he =>
    obtain ⟨hen, hout⟩ := (irq_iff s).mp hs
    have hhigh : irq t = true := by
      rw [irq_iff, hst, he]
      refine ⟨hen, hout.imp (fun hdone => ?_) id⟩
      rw [advanceOdd_status]
      exact (ite_eq_left_iff.mpr fun _ => hdone)
    exact absurd (hhigh.symm.trans ht) Bool.noConfusion

/-- Settles O24: a change of STATUS or IRQ_EN that is not one of the three listed leaves `irq` low when it was. -/
theorem irqRisesOnlyAtThese : Obligations.IrqRisesOnlyAtThese := by
  intro s t h hd hs ht
  have hsame (e : irq t = irq s) : False := by rw [e, hs] at ht; exact Bool.noConfusion ht
  obtain ⟨hen, hout⟩ := (irq_iff t).mp ht
  have hlow (he : s.irqEn = true) : ¬ (s.status.done = true ∨ s.status.err = true) := fun ho =>
    absurd (hs.symm.trans ((irq_iff s).mpr ⟨he, ho⟩)) Bool.noConfusion
  cases step_statusChange h hd with
  | control lo data s' hf hst he => exact .inr (.inr ⟨lo, data, s', hf, he ▸ hen, by rwa [hst] at hout⟩)
  | startFail lo s' hf hb hg hst he => exact .inr (.inl ⟨he ▸ hen, lo, s', hf, by rw [hst]⟩)
  | oddEnd v s' hf hst he =>
    have hen' : s.irqEn = true := he ▸ hen
    refine .inl ⟨hen', v, s', hf, hout.resolve_right fun herr => hlow hen' (.inr ?_)⟩
    rwa [hst, advanceOdd_status] at herr
  | startPass lo s' hf hb hst he => rw [hst] at hout; exact absurd hout (by simp)
  | clear lo s' hf hb hst he => rw [hst] at hout; exact absurd hout (by simp)
  | reset s' hf hst he => rw [hst] at hout; exact absurd hout (by decide)
  | same hst he => exact absurd (irq_congr (congrArg _ hst) (congrArg _ hst) he) hsame
  | ignored hst he => exact absurd (irq_congr (by rw [hst]) (by rw [hst]) he) hsame
  | evenEnd hst he => exact absurd (irq_congr (by rw [hst]) (by rw [hst]) he) hsame

/-! ### CMD_IGNORED -/

/-- Of all changes of STATUS only an accepted CLEAR and reset clear CMD_IGNORED. -/
theorem StatusChange.cmdIgnored_kept {s t : State} (h : StatusChange s t) (hs : s.status.cmdIgnored = true) :
    t.status.cmdIgnored = true ∨ ∃ s', fetch s = (.action .reset, s')
      ∨ (∃ lo, fetch s = (.instr (.clear lo), s') ∧ s.status.busy = false) := by
  cases h with
  | reset s' hf => exact .inr ⟨s', .inl hf⟩
  | clear lo s' hf hb => exact .inr ⟨s', .inr ⟨lo, hf, hb⟩⟩
  | ignored hst => exact .inl (by rw [hst])
  | same hst => exact .inl (by rw [hst, hs])
  | control _ _ _ _ hst => exact .inl (by rw [hst, hs])
  | startPass _ _ _ _ hst => exact .inl (by rw [hst, hs])
  | startFail _ _ _ _ _ hst => exact .inl (by rw [hst, hs])
  | evenEnd hst => exact .inl (by rw [hst, hs])
  | oddEnd _ _ _ hst => exact .inl (by rw [hst, advanceOdd_status, hs])

/-- Settles O51: what keeps the bit, what sets it, and what clears it. -/
theorem cmdIgnoredIsSticky : Obligations.CmdIgnoredIsSticky := by
  refine ⟨fun s t h hd hs ht => ?kept, fun lo data s i hi => ?sets, fun lo s hb => ?clears, fun s => rfl⟩
  case kept =>
    refine ((step_statusChange h hd).cmdIgnored_kept hs).resolve_left fun h' => ?_
    exact absurd (h'.symm.trans ht) Bool.noConfusion
  case sets =>
    refine ⟨ignoreCommand s, ?_, rfl⟩
    rcases hi with rfl | rfl | ⟨hb, rfl | rfl⟩
    · exact exec_ignoredOp lo s
    · exact exec_ignoredRsv lo data s
    · exact exec_start_of_busy hb lo
    · exact exec_clear_of_busy hb lo
  case clears => exact ⟨acceptClear s, exec_clear_of_idle hb lo, by rw [acceptClear_status]⟩

end Sys2Proof.Machine
end

section
/-! SUPPORT. The host's memory accesses and its cache duties, the value of an output byte, and what a refused run does
(20_memory.md section 5, 60_exceptions.md section 2). -/

namespace Sys2Proof.Machine

/-! ### Host reads -/

theorem hostReadByte_of_memory {s : State} {x : Addr}
    (h : s.status.busy = false ∨ s.conv = none ∨ ∃ c, s.conv = some c ∧ c.isOutput x = false) :
    hostReadByte s x = s.byteAt x := by
  unfold hostReadByte
  rcases h with hb | hc | ⟨c, hc, ho⟩
  · rw [hb]; cases s.conv <;> rfl
  · rw [hc]
  · rw [hc]; simp [ho]

theorem hostReadByte_of_race {s : State} {x : Addr} {c : Conversion} (hb : s.status.busy = true) (hc : s.conv = some c)
    (ho : c.isOutput x = true) :
    hostReadByte s x = Memory.read c.startMem x.toNat ∨ hostReadByte s x = c.outputByte x := by
  unfold hostReadByte
  rw [hc]
  cases Config.raceReadsNew s.draws x.toNat <;> simp [hb, ho]

/-- Settles O57: a read that refuses nothing answers `hostReadByte` at each address. -/
theorem hostReadReturnsMemoryOrRaces : Obligations.HostReadReturnsMemoryOrRaces := by
  intro s a n hr hstale t
  have ht : t = { s with hostData := hostReadBytes s a n, draws := s.draws + 1 } := by
    rcases hostRead_cases a n s with ⟨-, -, e⟩ | ⟨h, -⟩
    · exact e
    · rcases h with h | h
      · exact absurd hr h
      · exact absurd (h.symm.trans ((meetsStale_eq_false_iff s a n).mpr hstale)) Bool.noConfusion
  rw [ht]
  refine ⟨hostReadBytes_length s n a, fun k hk => ⟨fun c hb hc ho => ?race, fun h => ?memory⟩, rfl⟩
  case race =>
    rw [hostReadBytes_getElem? s n a k hk]
    exact (hostReadByte_of_race hb hc ho).imp (congrArg some) (congrArg some)
  case memory => exact (hostReadBytes_getElem? s n a k hk).trans (congrArg some (hostReadByte_of_memory h))

/-! ### Host writes -/

/-- Settles O59: a write outside the running regions is the memory's write; one into them leaves a free state. -/
theorem hostWriteIntoRunIsRefused : Obligations.HostWriteIntoRunIsRefused := by
  intro s a bytes t dirty
  rcases hostWrite_cases a bytes s with ⟨hout, e⟩ | ⟨hin, e⟩
  · refine ⟨fun _ => ?ordinary, fun ⟨k, hk, hhit⟩ => absurd hhit (hout k hk)⟩
    have ht : t = { s with mem := s.mem.writeBytes a bytes, dirty := dirty } := e
    rw [ht]
    refine ⟨fun hlen k b hb => ?inside, fun x hx => Memory.read_writeBytes_other s.mem a x bytes hx, rfl⟩
    obtain ⟨hk, rfl⟩ := List.getElem?_eq_some_iff.mp hb
    exact Memory.read_writeBytes_getElem s.mem a bytes hlen k hk
  · refine ⟨fun hout => ?_, fun _ => ?refused⟩
    · obtain ⟨k, hk, hhit⟩ := hin
      exact absurd hhit (hout k hk)
    have ht : t = refuseByHost .hostWriteDuringBusy { s with mem := s.mem.writeBytes a bytes, dirty := dirty } := e
    rw [ht]
    refine ⟨Option.some_ne_none _, fun hr => by rw [refuseByHost_refused, hr]; rfl,
      ⟨rfl, rfl, rfl, rfl, rfl, rfl, rfl, by simp, fun hm => ?wf⟩, _, rfl⟩
    exact Memory.writeAll_wf _ (Memory.writeBytes_wf a bytes hm)

/-! ### Cache duties -/

theorem frameStart_refused_of_unshown {s : State} (h : cacheDutiesShown s (latched s) = false) :
    (frameStart s).refused ≠ none := by
  rw [frameStart_refused, h]
  exact Option.some_ne_none _

/-- A dirty line that meets a region leaves the duties (a) and (b) not shown. -/
theorem cacheDutiesShown_eq_false {s : State} {c : Conversion} {d : Region} (hcoh : s.build.coherent = false)
    (hd : d ∈ s.dirty) (hmeet : d.disjoint c.srcRegion = false ∨ d.disjoint c.lumaRegion = false
      ∨ d.disjoint c.uRegion = false ∨ d.disjoint c.vRegion = false) : cacheDutiesShown s c = false := by
  refine Bool.eq_false_of_not_eq_true fun h => ?_
  rcases (cacheDutiesShown_iff s c).mp h with hcoh' | hall
  · exact absurd (hcoh.symm.trans hcoh') Bool.noConfusion
  · obtain ⟨hs, hl, hu, hv⟩ := hall d hd
    simp [hs, hl, hu, hv] at hmeet

theorem meetsStale_of_mem {s : State} {a : Addr} {n : Nat} {r : Region} (hcoh : s.build.coherent = false)
    (hr : r ∈ s.doneUnread ∨ r ∈ s.stale) (hmeet : r.disjoint ⟨a, n⟩ = false) : meetsStale s a n = true := by
  refine Bool.eq_true_of_not_eq_false fun h => ?_
  rcases (meetsStale_eq_false_iff s a n).mp h with hcoh' | hall
  · exact absurd (hcoh.symm.trans hcoh') Bool.noConfusion
  · exact absurd (hmeet.symm.trans (hall r hr)) Bool.noConfusion

/-- A read of STATUS with DONE = 1 makes the outputs of which DONE was not read stale. -/
theorem hostLearns_rdStatus_of_done {s : State} (hdone : s.status.done = true) (lo : BitVec 2) (data : Word) :
    hostLearns (.rdStatus lo data) (respond s.status.word s)
      = { respond s.status.word s with doneUnread := [], stale := s.doneUnread ++ s.stale } := by
  obtain ⟨-, hbit, -⟩ := statusWord_flags s.status
  exact if_pos (hbit.trans hdone)

/-- Settles O60: duties (a) and (b) at START, (c) at a host read; `Region.minus` for a clean and an invalidation. -/
theorem unshownCacheDutyRefusesRun : Obligations.UnshownCacheDutyRefusesRun := by
  unfold Obligations.UnshownCacheDutyRefusesRun
  intro holds
  refine ⟨fun s lo d hb hcoh hg hd hmeet => ?start, fun s a n r hcoh hr hmeet => ?read,
    fun s a n => ⟨fun x => Region.contains_flatMap_minus s.dirty ⟨a, n⟩ x, rfl⟩,
    fun s a n => ⟨fun x => Region.contains_flatMap_minus s.stale ⟨a, n⟩ x, rfl⟩,
    fun s c => outputsToInvalidate_of_not_coherent, fun s lo data x hdone => ?learn⟩
  case start =>
    refine ⟨acceptStart s, exec_start_of_idle hb lo, ?_, (acceptStart_busy hb).mpr hg⟩
    rw [acceptStart_of_pass hg]
    exact frameStart_refused_of_unshown (cacheDutiesShown_eq_false (s := clearOutcome s) hcoh hd hmeet)
  case read =>
    intro t
    have ht : t = refuseByHost .cacheDutyNotShown { s with hostData := hostReadBytes s a n, draws := s.draws + 1 } := by
      rcases hostRead_cases a n s with ⟨-, h, -⟩ | ⟨-, e⟩
      · exact absurd (h.symm.trans (meetsStale_of_mem hcoh hr hmeet)) Bool.noConfusion
      · exact e
    rw [ht]
    refine ⟨Option.some_ne_none _, fun hs => by rw [refuseByHost_refused, hs]; rfl, ?_, rfl, rfl, rfl, _, rfl⟩
    rw [refuseByHost_hostData, undefinedBytes_length, hostReadBytes_length]
  case learn =>
    refine ⟨respond s.status.word s, rfl, ?_, ?_⟩
    · rw [hostLearns_rdStatus_of_done hdone]
      simp [holds, or_and_right, exists_or]
    · rw [hostLearns_rdStatus_of_done hdone]

/-! ### The value of an output byte -/

theorem Addr.offset_toNat (b : Addr) {i n : Nat} (hi : i < n) (hn : n ≤ addrSpace) :
    (b + BitVec.ofNat 32 i - b).toNat = i := by
  rw [add_sub_cancel_left, BitVec.toNat_ofNat]
  exact Nat.mod_eq_of_lt (lt_of_lt_of_le hi hn)

theorem Region.contains_of_lt {b : Addr} {i n : Nat} (hi : i < n) : Region.contains ⟨b, n⟩ (b + BitVec.ofNat 32 i) = true :=
  (Region.contains_iff _ _).mpr ⟨i, hi, rfl⟩

/-- A place in a plane of `m` rows of `w` bytes, as an offset. -/
theorem plane_offset_lt {k j m w : Nat} (hk : k < m) (hj : j < w) : k * w + j < m * w :=
  calc k * w + j < k * w + w := Nat.add_lt_add_left hj _
    _ = (k + 1) * w := (Nat.succ_mul k w).symm
    _ ≤ m * w := Nat.mul_le_mul_right w hk

theorem plane_offset_div {k j w : Nat} (hj : j < w) : (k * w + j) / w = k := by
  rw [Nat.mul_comm, Nat.mul_add_div (Nat.zero_lt_of_lt hj), Nat.div_eq_of_lt hj, Nat.add_zero]

theorem plane_offset_mod {k j w : Nat} (hj : j < w) : (k * w + j) % w = j := by
  rw [Nat.mul_comm, Nat.mul_add_mod, Nat.mod_eq_of_lt hj]

/-- What the premises say of the regions, in terms of addresses. -/
structure Conversion.Premises (c : Conversion) : Prop where
  srcLuma : c.srcRegion.disjoint c.lumaRegion = true
  srcU : c.srcRegion.disjoint c.uRegion = true
  srcV : c.srcRegion.disjoint c.vRegion = true
  lumaU : c.lumaRegion.disjoint c.uRegion = true
  lumaV : c.lumaRegion.disjoint c.vRegion = true
  uV : c.uRegion.disjoint c.vRegion = true
  srcSize : c.height.toNat * c.stride.toNat ≤ addrSpace
  lumaSize : c.height.toNat * (c.stride.toNat / 2) ≤ addrSpace
  chromaSize : c.height.toNat / 2 * (c.stride.toNat / 4) ≤ addrSpace

theorem Conversion.premises_of {c : Conversion} (h : c.premisesHold = true) : c.Premises := by
  simp only [Conversion.premisesHold, Bool.and_eq_true, decide_eq_true_eq] at h
  obtain ⟨⟨⟨⟨⟨⟨⟨⟨⟨hsl, hsu⟩, hsv⟩, hlu⟩, hlv⟩, huv⟩, hs⟩, hl⟩, hu⟩, -⟩ := h
  exact ⟨hsl, hsu, hsv, hlu, hlv, huv, hs, hl, hu⟩

theorem Region.not_contains_of_disjoint {r q : Region} (h : r.disjoint q = true) {a : Addr} (ha : q.contains a = true) :
    r.contains a = false :=
  Region.contains_false_of_disjoint (r := q) ((Region.disjoint_comm q r).trans h) ha

/-- Settles O58: with the premises each output byte is in its own region only, and its offset there gives its row and column
back. -/
theorem outputByteIsFrameLaw : Obligations.OutputByteIsFrameLaw := by
  intro c hp
  obtain ⟨-, -, -, hlu, hlv, huv, -, hlsize, hcsize⟩ := Conversion.premises_of hp
  refine ⟨fun r i hr hi => ?luma, fun k j hk hj => ⟨?u, ?v⟩⟩
  case luma =>
    have ho := plane_offset_lt hr hi
    have hin : c.lumaRegion.contains (c.lumaBase + BitVec.ofNat 32 (r * (c.stride.toNat / 2) + i)) = true :=
      Region.contains_of_lt ho
    simp only [Conversion.outputByte, hin, if_true]
    rw [Addr.offset_toNat _ ho hlsize, plane_offset_div hi, plane_offset_mod hi]
  case u =>
    have ho := plane_offset_lt hk hj
    have hin : c.uRegion.contains (c.uBase + BitVec.ofNat 32 (k * (c.stride.toNat / 4) + j)) = true :=
      Region.contains_of_lt ho
    simp only [Conversion.outputByte, Region.not_contains_of_disjoint hlu hin, hin, if_true, if_false, Bool.false_eq_true]
    rw [Addr.offset_toNat _ ho hcsize, plane_offset_div hj, plane_offset_mod hj]
  case v =>
    have ho := plane_offset_lt hk hj
    have hin : c.vRegion.contains (c.vBase + BitVec.ofNat 32 (k * (c.stride.toNat / 4) + j)) = true :=
      Region.contains_of_lt ho
    simp only [Conversion.outputByte, Region.not_contains_of_disjoint hlv hin, Region.not_contains_of_disjoint huv hin,
      if_false, Bool.false_eq_true]
    rw [Addr.offset_toNat _ ho hcsize, plane_offset_div hj, plane_offset_mod hj]

end Sys2Proof.Machine
end

section
/-! SUPPORT. What a unit writes and what it leaves, for even and odd units of any size at once: the bytes of its lanes, its
windows, and the statements about single units (40_even_row_unpacker.md, 41_odd_row_unpacker.md). -/

namespace Sys2Proof.Machine

/-! ### Windows of addresses -/

theorem Region.contains_eq_false_iff (b : Addr) (n : Nat) (a : Addr) :
    Region.contains ⟨b, n⟩ a = false ↔ ∀ i, i < n → a ≠ b + BitVec.ofNat 32 i := by
  rw [← Bool.not_eq_true, Region.contains_iff]
  simp

/-- A part of a window lies in the window. -/
theorem Region.contains_part {b a : Addr} {k m n : Nat} (hkm : k + m ≤ n)
    (h : Region.contains ⟨b + BitVec.ofNat 32 k, m⟩ a = true) : Region.contains ⟨b, n⟩ a = true := by
  obtain ⟨i, hi, rfl⟩ := (Region.contains_iff _ _).mp h
  dsimp only at hi ⊢
  rw [BitVec.add_assoc, ← BitVec.ofNat_add]
  exact Region.contains_of_lt (by omega)

theorem Region.not_contains_part {b a : Addr} {k m n : Nat} (hkm : k + m ≤ n) (h : Region.contains ⟨b, n⟩ a = false) :
    Region.contains ⟨b + BitVec.ofNat 32 k, m⟩ a = false :=
  Bool.eq_false_of_not_eq_true fun hp => absurd (h.symm.trans (Region.contains_part hkm hp)) Bool.noConfusion

theorem Region.not_contains_prefix {b a : Addr} {m n : Nat} (hmn : m ≤ n) (h : Region.contains ⟨b, n⟩ a = false) :
    Region.contains ⟨b, m⟩ a = false := by
  have := Region.not_contains_part (k := 0) (by omega : 0 + m ≤ n) h
  simpa using this

/-- The bytes of a window before a part of it are not in the part, when the window does not go round the address space. -/
theorem Region.not_contains_before {b : Addr} {i k m : Nat} (hik : i < k) (hkm : k + m ≤ addrSpace) :
    Region.contains ⟨b + BitVec.ofNat 32 k, m⟩ (b + BitVec.ofNat 32 i) = false := by
  rw [Region.contains_eq_false_iff]
  intro j hj e
  rw [BitVec.add_assoc, ← BitVec.ofNat_add, BitVec.add_right_inj] at e
  have := congrArg BitVec.toNat e
  simp only [BitVec.toNat_ofNat, addrSpace] at this hkm
  omega

/-- A part of an admitted transaction is admitted. -/
theorem Build.admits_part {b : Build} {w : Bool} {a : Addr} {k m n : Nat} (hkm : k + m ≤ n) (h : b.admits w a n = true) :
    b.admits w (a + BitVec.ofNat 32 k) m = true := by
  rw [Build.admits_iff] at h ⊢
  intro i hi
  rw [BitVec.add_assoc, ← BitVec.ofNat_add]
  exact h (k + i) (by omega)

/-! ### Writes in order -/

/-- A byte of one of a list of writes that no later write names is that write's (20_memory.md R76, R87). -/
theorem Memory.read_writeAll_getElem (m : Memory) (pre post : UnitWrites) (w : Addr × List Byte) (hl : w.2.length ≤ addrSpace)
    {i : Nat} (hi : i < w.2.length)
    (hpost : ∀ v ∈ post, ∀ j, j < v.2.length → w.1 + BitVec.ofNat 32 i ≠ v.1 + BitVec.ofNat 32 j) :
    Memory.read (Memory.writeAll m (pre ++ w :: post)) (w.1 + BitVec.ofNat 32 i).toNat = w.2[i] := by
  have hsplit : Memory.writeAll m (pre ++ w :: post)
      = Memory.writeAll (Memory.writeBytes (Memory.writeAll m pre) w.1 w.2) post := by
    simp [Memory.writeAll]
  rw [hsplit, Memory.read_writeAll_other _ post _ hpost, Memory.read_writeBytes_getElem _ _ _ hl i hi]

/-! ### The lanes of a unit's data -/

theorem unitData_eq (n : Nat) (s : State) :
    unitData n s = (List.range n).map fun p => s.byteAt (s.unitSrc + BitVec.ofNat 32 p) :=
  Memory.readBytes_eq_map ..

theorem unitData_getElem? {n p : Nat} (hp : p < n) (s : State) :
    (unitData n s)[p]? = some (s.byteAt (s.unitSrc + BitVec.ofNat 32 p)) := by
  rw [unitData_eq, List.getElem?_map, List.getElem?_range hp]
  rfl

/-- A list with the elements of a table is the table. -/
theorem eq_map_range {α : Type} {l : List α} {m : Nat} {f : Nat → α} (hl : l.length = m)
    (h : ∀ i, i < m → l[i]? = some (f i)) : l = (List.range m).map f := by
  refine List.ext_getElem? fun i => ?_
  by_cases hi : i < m
  · rw [h i hi, List.getElem?_map, List.getElem?_range hi]; rfl
  · rw [List.getElem?_eq_none (by omega), List.getElem?_eq_none (by simpa using hi)]

/-- Luma byte `i` of a unit is its byte `2i` (40_even_row_unpacker.md R133). -/
theorem lumaStream_unitData {n : Nat} (hn : n % 4 = 0) (s : State) :
    lumaStream (unitData n s) = (List.range (n / 2)).map fun i => s.byteAt (s.unitSrc + BitVec.ofNat 32 (2 * i)) :=
  eq_map_range (by rw [lumaStream_length, unitData_length]; omega)
    fun i hi => by rw [lumaStream_getElem?, unitData_getElem? (by omega)]

/-- U byte `j` of a unit is its byte `4j + 1` (R133). -/
theorem uStream_unitData {n : Nat} (hn : n % 4 = 0) (s : State) :
    uStream (unitData n s) = (List.range (n / 4)).map fun j => s.byteAt (s.unitSrc + BitVec.ofNat 32 (4 * j + 1)) :=
  eq_map_range (by rw [uStream_length, unitData_length]; omega)
    fun j hj => by rw [uStream_getElem?, unitData_getElem? (by omega)]

/-- V byte `j` of a unit is its byte `4j + 3` (R133). -/
theorem vStream_unitData {n : Nat} (hn : n % 4 = 0) (s : State) :
    vStream (unitData n s) = (List.range (n / 4)).map fun j => s.byteAt (s.unitSrc + BitVec.ofNat 32 (4 * j + 3)) :=
  eq_map_range (by rw [vStream_length, unitData_length]; omega)
    fun j hj => by rw [vStream_getElem?, unitData_getElem? (by omega)]

/-! ### One unit, even or odd -/

/-- How many bytes of each chroma plane `d` source bytes of a row give: one for four in an even row, none in an odd one
(40_even_row_unpacker.md R130, 41_odd_row_unpacker.md R153). -/
def chromaBytes (chroma : Bool) (d : Nat) : Nat := if chroma then d / 4 else 0

@[simp] theorem chromaBytes_true (d : Nat) : chromaBytes true d = d / 4 := rfl
@[simp] theorem chromaBytes_false (d : Nat) : chromaBytes false d = 0 := rfl

/-- The luma, U and V bytes that the next `d` source bytes of the row go to. -/
def lumaWindow (s : State) (d : Nat) : Region := ⟨s.unitLuma, d / 2⟩
def uWindow (chroma : Bool) (s : State) (d : Nat) : Region := ⟨s.unitU, chromaBytes chroma d⟩
def vWindow (chroma : Bool) (s : State) (d : Nat) : Region := ⟨s.unitV, chromaBytes chroma d⟩

/-- The state after a unit of `n` bytes in a run that is not refused. -/
def afterUnit (chroma : Bool) (n : Nat) (s : State) : State :=
  unitDone n (unitData n s) (unitRoute chroma s (unitData n s)) s

/-- The transactions of a unit by their addresses and lengths (20_memory.md R74, R80). -/
theorem unitAdmitted_unitRoute (chroma : Bool) {n : Nat} (hn : n % 4 = 0) (s : State) :
    unitAdmitted n (unitRoute chroma s (unitData n s)) s
      = (s.build.admits false s.unitSrc n && s.build.admits true s.unitLuma (n / 2)
        && s.build.admits true s.unitU (chromaBytes chroma n) && s.build.admits true s.unitV (chromaBytes chroma n)) := by
  cases chroma <;>
    simp [unitAdmitted, unitRoute, evenWrites, oddWrites, lumaStream_unitData hn, uStream_unitData hn, vStream_unitData hn,
      Build.admits, Bool.and_assoc]

theorem unitStep_of_admitted {chroma : Bool} {n : Nat} {s : State} (hr : s.refused = none)
    (h : unitAdmitted n (unitRoute chroma s (unitData n s)) s = true) :
    unitStep n (unitRoute chroma) s = .next (afterUnit chroma n s) := by
  rcases unitStep_cases n (unitRoute chroma) s with ⟨-, e⟩ | ⟨hno, -⟩
  · rw [e, converterEffect_of_not_refused hr]; rfl
  · exact absurd (h.symm.trans hno) Bool.noConfusion

theorem unitStep_of_not_admitted {n : Nat} {route : State → List Byte → UnitWrites} {s : State}
    (h : unitAdmitted n (route s (unitData n s)) s = false) : unitStep n route s = .fault .notAdmitted := by
  rcases unitStep_cases n route s with ⟨hyes, -⟩ | ⟨-, e⟩
  · exact absurd (hyes.symm.trans h) Bool.noConfusion
  · exact e

theorem unitStep_next_of_not_refused {chroma : Bool} {n : Nat} {s t : State} (hr : s.refused = none)
    (h : unitStep n (unitRoute chroma) s = .next t) : t = afterUnit chroma n s := by
  rcases unitStep_next h with ⟨-, e⟩ | ⟨hno, -⟩
  · exact e
  · exact absurd hr hno

/-- A byte outside the unit's windows stays. -/
theorem afterUnit_other {chroma : Bool} {n : Nat} (hn : n % 4 = 0) {s : State} {a : Addr}
    (hl : (lumaWindow s n).contains a = false) (hu : (uWindow chroma s n).contains a = false)
    (hv : (vWindow chroma s n).contains a = false) : (afterUnit chroma n s).byteAt a = s.byteAt a := by
  rw [lumaWindow, Region.contains_eq_false_iff] at hl
  rw [uWindow, Region.contains_eq_false_iff] at hu
  rw [vWindow, Region.contains_eq_false_iff] at hv
  refine Memory.read_writeAll_other s.mem _ a ?_
  cases chroma
  · simpa [unitRoute, oddWrites, lumaStream_unitData hn] using hl
  · simpa [unitRoute, evenWrites, lumaStream_unitData hn, uStream_unitData hn, vStream_unitData hn] using ⟨hl, hu, hv⟩

/-- A V byte of the unit is written last, so it always holds its lane. -/
theorem afterUnit_v {chroma : Bool} {n : Nat} (hn : n % 4 = 0) (hsize : n ≤ addrSpace) (s : State) {j : Nat}
    (hj : j < chromaBytes chroma n) :
    (afterUnit chroma n s).byteAt (s.unitV + BitVec.ofNat 32 j) = s.byteAt (s.unitSrc + BitVec.ofNat 32 (4 * j + 3)) := by
  cases chroma
  · exact absurd hj (Nat.not_lt_zero j)
  have hlen : (vStream (unitData n s)).length = n / 4 := by rw [vStream_unitData hn]; simp
  have := Memory.read_writeAll_getElem s.mem
    [(s.unitLuma, lumaStream (unitData n s)), (s.unitU, uStream (unitData n s))] [] (s.unitV, vStream (unitData n s))
    (by simp only [hlen]; omega) (i := j) (by rwa [hlen]) (by simp)
  refine this.trans ?_
  simp [vStream_unitData hn]

/-- A U byte of the unit holds its lane, unless a V byte is at the same address. -/
theorem afterUnit_u {chroma : Bool} {n : Nat} (hn : n % 4 = 0) (hsize : n ≤ addrSpace) (s : State) {j : Nat}
    (hj : j < chromaBytes chroma n) (hv : (vWindow chroma s n).contains (s.unitU + BitVec.ofNat 32 j) = false) :
    (afterUnit chroma n s).byteAt (s.unitU + BitVec.ofNat 32 j) = s.byteAt (s.unitSrc + BitVec.ofNat 32 (4 * j + 1)) := by
  cases chroma
  · exact absurd hj (Nat.not_lt_zero j)
  rw [vWindow, Region.contains_eq_false_iff] at hv
  have hlen : (uStream (unitData n s)).length = n / 4 := by rw [uStream_unitData hn]; simp
  have hlen' : (vStream (unitData n s)).length = n / 4 := by rw [vStream_unitData hn]; simp
  have := Memory.read_writeAll_getElem s.mem [(s.unitLuma, lumaStream (unitData n s))]
    [(s.unitV, vStream (unitData n s))] (s.unitU, uStream (unitData n s)) (by simp only [hlen]; omega) (i := j)
    (by rwa [hlen]) (by simpa [hlen'] using hv)
  refine this.trans ?_
  simp [uStream_unitData hn]

/-- A luma byte of the unit holds its lane, unless a chroma byte is at the same address. -/
theorem afterUnit_luma {chroma : Bool} {n : Nat} (hn : n % 4 = 0) (hsize : n ≤ addrSpace) (s : State) {i : Nat}
    (hi : i < n / 2) (hu : (uWindow chroma s n).contains (s.unitLuma + BitVec.ofNat 32 i) = false)
    (hv : (vWindow chroma s n).contains (s.unitLuma + BitVec.ofNat 32 i) = false) :
    (afterUnit chroma n s).byteAt (s.unitLuma + BitVec.ofNat 32 i) = s.byteAt (s.unitSrc + BitVec.ofNat 32 (2 * i)) := by
  rw [uWindow, Region.contains_eq_false_iff] at hu
  rw [vWindow, Region.contains_eq_false_iff] at hv
  have hlen : (lumaStream (unitData n s)).length = n / 2 := by rw [lumaStream_unitData hn]; simp
  have hlanes : (lumaStream (unitData n s))[i]'(by rwa [hlen]) = s.byteAt (s.unitSrc + BitVec.ofNat 32 (2 * i)) := by
    simp [lumaStream_unitData hn]
  have hwrite (post : UnitWrites) := Memory.read_writeAll_getElem s.mem [] post (s.unitLuma, lumaStream (unitData n s))
    (by simp only [hlen]; omega) (i := i) (by rwa [hlen])
  cases chroma
  · exact (hwrite [] (by simp)).trans hlanes
  · refine (hwrite [(s.unitU, uStream (unitData n s)), (s.unitV, vStream (unitData n s))] ?_).trans hlanes
    simpa [uStream_unitData hn, vStream_unitData hn] using ⟨hu, hv⟩

end Sys2Proof.Machine
end

section
/-! SUPPORT. The statements about single units: GROUP and BLOCK, even and odd (40_even_row_unpacker.md R130 to R133,
41_odd_row_unpacker.md R151 to R153), in runs that are refused too. -/

namespace Sys2Proof.Machine

/-! ### The unit operations by size and parity -/

theorem exec_groupEven (s : State) : exec .groupEven s = unitStep 4 (unitRoute true) s := rfl
theorem exec_blockEven (s : State) : exec .blockEven s = unitStep 32 (unitRoute true) s := rfl
theorem exec_groupOdd (s : State) : exec .groupOdd s = unitStep 4 (unitRoute false) s := rfl
theorem exec_blockOdd (s : State) : exec .blockOdd s = unitStep 32 (unitRoute false) s := rfl

/-- A unit operation whose transactions are admitted, in a run that is not refused. -/
theorem unitStep_next_of_admits {chroma : Bool} {n : Nat} (hn : n % 4 = 0) {s : State} (hr : s.refused = none)
    (h : (s.build.admits false s.unitSrc n && s.build.admits true s.unitLuma (n / 2)
      && s.build.admits true s.unitU (chromaBytes chroma n) && s.build.admits true s.unitV (chromaBytes chroma n)) = true) :
    unitStep n (unitRoute chroma) s = .next (afterUnit chroma n s) :=
  unitStep_of_admitted hr ((unitAdmitted_unitRoute chroma hn s).trans h)

/-- A unit operation one of whose transactions is not admitted, in any run. -/
theorem unitStep_fault_of_not_admits {chroma : Bool} {n : Nat} (hn : n % 4 = 0) {s : State}
    (h : (s.build.admits false s.unitSrc n && s.build.admits true s.unitLuma (n / 2)
      && s.build.admits true s.unitU (chromaBytes chroma n) && s.build.admits true s.unitV (chromaBytes chroma n)) = false) :
    unitStep n (unitRoute chroma) s = .fault .notAdmitted :=
  unitStep_of_not_admitted ((unitAdmitted_unitRoute chroma hn s).trans h)

/-- An odd unit has no transaction on the chroma planes. -/
theorem admits_odd {s : State} {n : Nat} {b : Bool} (h : (s.build.admits false s.unitSrc n && s.build.admits true s.unitLuma (n / 2)) = b) :
    (s.build.admits false s.unitSrc n && s.build.admits true s.unitLuma (n / 2)
      && s.build.admits true s.unitU (chromaBytes false n) && s.build.admits true s.unitV (chromaBytes false n)) = b := by
  simpa [Build.admits] using h

/-! ### Registers and port after a unit -/

/-- What a unit leaves of the state besides memory: `stage`, `col` and the port, by the source bytes. -/
theorem afterUnit_even_frame {n : Nat} (hn : n % 4 = 0) (s : State) :
    let b (p : Nat) : Byte := s.byteAt (s.unitSrc + BitVec.ofNat 32 p)
    afterUnit true n s = { s with
      mem := (afterUnit true n s).mem, stage := (List.range n).map b
      work := { s.work with col := s.work.col + BitVec.ofNat 32 n }
      memPort := [.read s.unitSrc n ((List.range n).map b), .write s.unitLuma ((List.range (n / 2)).map fun i => b (2 * i)),
        .write s.unitU ((List.range (n / 4)).map fun j => b (4 * j + 1)),
        .write s.unitV ((List.range (n / 4)).map fun j => b (4 * j + 3))] } := by
  simp only [afterUnit, unitDone, unitRoute, evenWrites, lumaStream_unitData hn, uStream_unitData hn,
    vStream_unitData hn, List.map_cons, List.map_nil, ← unitData_eq]

theorem afterUnit_odd_frame {n : Nat} (hn : n % 4 = 0) (s : State) :
    let b (p : Nat) : Byte := s.byteAt (s.unitSrc + BitVec.ofNat 32 p)
    afterUnit false n s = { s with
      mem := (afterUnit false n s).mem, stage := (List.range n).map b
      work := { s.work with col := s.work.col + BitVec.ofNat 32 n }
      memPort := [.read s.unitSrc n ((List.range n).map b),
        .write s.unitLuma ((List.range (n / 2)).map fun i => b (2 * i))] } := by
  simp only [afterUnit, unitDone, unitRoute, oddWrites, lumaStream_unitData hn, List.map_cons, List.map_nil,
    ← unitData_eq]

/-! ### Windows of one and two bytes -/

theorem Region.contains_one (b a : Addr) : Region.contains ⟨b, 1⟩ a = false ↔ a ≠ b := by
  rw [Region.contains_eq_false_iff]
  simp

theorem Region.contains_two (b a : Addr) : Region.contains ⟨b, 2⟩ a = false ↔ a ≠ b ∧ a ≠ b + 1#32 := by
  rw [Region.contains_eq_false_iff]
  constructor
  · intro h
    exact ⟨by simpa using h 0 (by decide), h 1 (by decide)⟩
  · rintro ⟨h0, h1⟩ i hi
    interval_cases i
    · simpa using h0
    · exact h1

/-! ### The statements -/

/-- Settles O25: a group is an even unit of 4 bytes, with windows of 2, 1 and 1 bytes. -/
theorem groupEvenCopiesGroup : Obligations.GroupEvenCopiesGroup := by
  intro s hr b admitted
  refine ⟨fun h => unitStep_fault_of_not_admits (chroma := true) rfl h, fun h => ?_⟩
  have hn : 4 % 4 = 0 := rfl
  have hsize : 4 ≤ addrSpace := by decide
  refine ⟨afterUnit true 4 s, unitStep_next_of_admits (chroma := true) hn hr h, ?v, fun hu => ?u, fun h1 h2 => ?y0, fun h1 h2 => ?y1,
    fun a h0 h1 hu hv => ?other, afterUnit_even_frame hn s⟩
  case v => simpa using afterUnit_v (chroma := true) hn hsize s (j := 0) (by decide)
  case u =>
    have := afterUnit_u (chroma := true) hn hsize s (j := 0) (by decide) ((Region.contains_one ..).mpr (by simpa using hu))
    simpa using this
  case y0 =>
    have := afterUnit_luma (chroma := true) hn hsize s (i := 0) (by decide)
      ((Region.contains_one ..).mpr (by simpa using h1)) ((Region.contains_one ..).mpr (by simpa using h2))
    simpa [b] using this
  case y1 =>
    exact afterUnit_luma (chroma := true) hn hsize s (i := 1) (by decide)
      ((Region.contains_one ..).mpr h1) ((Region.contains_one ..).mpr h2)
  case other =>
    exact afterUnit_other (chroma := true) hn ((Region.contains_two ..).mpr ⟨h0, h1⟩) ((Region.contains_one ..).mpr hu)
      ((Region.contains_one ..).mpr hv)

/-- Settles O26: a block is an even unit of 32 bytes. -/
theorem blockEvenCopiesBlock : Obligations.BlockEvenCopiesBlock := by
  intro s hr b lumaR uR vR admitted
  refine ⟨fun h => unitStep_fault_of_not_admits (chroma := true) rfl h, fun h => ?_⟩
  have hn : 32 % 4 = 0 := rfl
  have hsize : 32 ≤ addrSpace := by decide
  exact ⟨afterUnit true 32 s, unitStep_next_of_admits (chroma := true) hn hr h, fun j hj => afterUnit_v (chroma := true) hn hsize s hj,
    fun j hj hv => afterUnit_u (chroma := true) hn hsize s hj hv,
    fun i hi hu hv => afterUnit_luma (chroma := true) hn hsize s hi hu hv,
    fun a hl hu hv => afterUnit_other (chroma := true) hn hl hu hv, afterUnit_even_frame hn s⟩

theorem uWindow_odd_contains (s : State) (n : Nat) (a : Addr) : (uWindow false s n).contains a = false := by
  rw [uWindow, Region.contains_eq_false_iff]
  exact fun i hi => absurd hi (Nat.not_lt_zero i)

theorem vWindow_odd_contains (s : State) (n : Nat) (a : Addr) : (vWindow false s n).contains a = false := by
  rw [vWindow, Region.contains_eq_false_iff]
  exact fun i hi => absurd hi (Nat.not_lt_zero i)

/-- A luma byte of an odd unit: there is no chroma byte that could be at the same address. -/
theorem afterUnit_odd_luma {n : Nat} (hn : n % 4 = 0) (hsize : n ≤ addrSpace) (s : State) {i : Nat} (hi : i < n / 2) :
    (afterUnit false n s).byteAt (s.unitLuma + BitVec.ofNat 32 i) = s.byteAt (s.unitSrc + BitVec.ofNat 32 (2 * i)) :=
  afterUnit_luma hn hsize s hi (uWindow_odd_contains ..) (vWindow_odd_contains ..)

theorem afterUnit_odd_other {n : Nat} (hn : n % 4 = 0) {s : State} {a : Addr}
    (hl : (lumaWindow s n).contains a = false) : (afterUnit false n s).byteAt a = s.byteAt a :=
  afterUnit_other hn hl (uWindow_odd_contains ..) (vWindow_odd_contains ..)

/-- Settles O27: an odd group is an odd unit of 4 bytes. -/
theorem groupOddCopiesLuma : Obligations.GroupOddCopiesLuma := by
  intro s hr b admitted
  have hn : 4 % 4 = 0 := rfl
  have hsize : 4 ≤ addrSpace := by decide
  refine ⟨fun h => unitStep_fault_of_not_admits hn (admits_odd h), fun h => ?_⟩
  refine ⟨afterUnit false 4 s, unitStep_next_of_admits hn hr (admits_odd h), ?y0,
    afterUnit_odd_luma hn hsize s (i := 1) (by decide),
    fun a h0 h1 => afterUnit_odd_other hn ((Region.contains_two ..).mpr ⟨h0, h1⟩), afterUnit_odd_frame hn s⟩
  case y0 => simpa [b] using afterUnit_odd_luma hn hsize s (i := 0) (by decide)

/-- Settles O28: an odd block is an odd unit of 32 bytes. -/
theorem blockOddCopiesLuma : Obligations.BlockOddCopiesLuma := by
  intro s hr b admitted
  have hn : 32 % 4 = 0 := rfl
  have hsize : 32 ≤ addrSpace := by decide
  refine ⟨fun h => unitStep_fault_of_not_admits hn (admits_odd h), fun h => ?_⟩
  exact ⟨afterUnit false 32 s, unitStep_next_of_admits hn hr (admits_odd h),
    fun i hi => afterUnit_odd_luma hn hsize s hi, fun a hl => afterUnit_odd_other hn hl, afterUnit_odd_frame hn s⟩

/-! ### The plane mux -/

theorem BitVec.div_ofNat_eq (x : BitVec 32) {k : Nat} (hk : k < 4294967296) :
    x / BitVec.ofNat 32 k = BitVec.ofNat 32 (x.toNat / k) := by
  apply BitVec.eq_of_toNat_eq
  have := Nat.div_le_self x.toNat k
  rw [BitVec.toNat_udiv, BitVec.toNat_ofNat, BitVec.toNat_ofNat, Nat.mod_eq_of_lt hk, Nat.mod_eq_of_lt (by omega)]

/-- The mux routes the source bytes of a unit to the unit's windows, lane by lane (40_even_row_unpacker.md R130). -/
theorem planeAddr_unit {s : State} (hcol : s.work.col.toNat % 4 = 0) (p : Nat) :
    s.planeAddr (s.work.col.toNat + p) =
      if p % 2 = 0 then s.unitLuma + BitVec.ofNat 32 (p / 2)
      else if p % 4 = 1 then s.unitU + BitVec.ofNat 32 (p / 4) else s.unitV + BitVec.ofNat 32 (p / 4) := by
  have h2 := BitVec.div_ofNat_eq s.work.col (k := 2) (by decide)
  have h4 := BitVec.div_ofNat_eq s.work.col (k := 4) (by decide)
  simp only [State.planeAddr, planeMux, State.unitLuma, State.unitU, State.unitV, h2, h4, BitVec.add_assoc,
    ← BitVec.ofNat_add]
  by_cases hp2 : p % 2 = 0
  · rw [if_pos hp2, if_pos (by omega), show (s.work.col.toNat + p) / 2 = s.work.col.toNat / 2 + p / 2 by omega]
    rfl
  · by_cases hp4 : p % 4 = 1
    · rw [if_neg hp2, if_pos hp4, if_neg (by omega), if_pos (by omega),
        show (s.work.col.toNat + p - 1) / 4 = s.work.col.toNat / 4 + p / 4 by omega]
      rfl
    · rw [if_neg hp2, if_neg hp4, if_neg (by omega), if_neg (by omega),
        show (s.work.col.toNat + p - 3) / 4 = s.work.col.toNat / 4 + p / 4 by omega]
      rfl

/-- An even unit whose windows are disjoint puts each source byte where the mux says. -/
theorem afterUnit_planeAddr {n : Nat} (hn : n % 4 = 0) (hsize : n ≤ addrSpace) {s : State}
    (hcol : s.work.col.toNat % 4 = 0) (hlu : (lumaWindow s n).disjoint (uWindow true s n) = true)
    (hlv : (lumaWindow s n).disjoint (vWindow true s n) = true) (huv : (uWindow true s n).disjoint (vWindow true s n) = true)
    {p : Nat} (hp : p < n) :
    (afterUnit true n s).byteAt (s.planeAddr (s.work.col.toNat + p)) = s.byteAt (s.unitSrc + BitVec.ofNat 32 p) := by
  rw [planeAddr_unit hcol]
  split
  · have hi : p / 2 < n / 2 := by omega
    have hin : (lumaWindow s n).contains (s.unitLuma + BitVec.ofNat 32 (p / 2)) = true := Region.contains_of_lt hi
    rw [afterUnit_luma hn hsize s hi (Region.contains_false_of_disjoint hlu hin) (Region.contains_false_of_disjoint hlv hin),
      show 2 * (p / 2) = p by omega]
  · have hj : p / 4 < chromaBytes true n := by rw [chromaBytes_true]; omega
    split
    · have hin : (uWindow true s n).contains (s.unitU + BitVec.ofNat 32 (p / 4)) = true := Region.contains_of_lt hj
      rw [afterUnit_u hn hsize s hj (Region.contains_false_of_disjoint huv hin), show 4 * (p / 4) + 1 = p by omega]
    · rw [afterUnit_v hn hsize s hj, show 4 * (p / 4) + 3 = p by omega]

/-- Settles O30: for the two sizes. -/
theorem evenUnitFollowsPlaneMux : Obligations.EvenUnitFollowsPlaneMux := by
  intro s n i hr hni hcol _ hsrc hl hu hv hlu hlv huv
  obtain ⟨hn, hsize, he⟩ : n % 4 = 0 ∧ n ≤ addrSpace ∧ exec i s = unitStep n (unitRoute true) s := by
    rcases hni with ⟨rfl, rfl⟩ | ⟨rfl, rfl⟩
    · exact ⟨rfl, by decide, rfl⟩
    · exact ⟨rfl, by decide, rfl⟩
  exact ⟨afterUnit true n s, he.trans (unitStep_next_of_admits hn hr (by simp [hsrc, hl, hu, hv])),
    fun p hp => afterUnit_planeAddr hn hsize hcol hlu hlv huv hp⟩

/-! ### Odd units against even ones -/

/-- Outside the chroma windows an even and an odd unit leave the same bytes. -/
theorem afterUnit_even_eq_odd {n : Nat} (hn : n % 4 = 0) (hsize : n ≤ addrSpace) {s : State} {a : Addr}
    (hu : (uWindow true s n).contains a = false) (hv : (vWindow true s n).contains a = false) :
    (afterUnit true n s).byteAt a = (afterUnit false n s).byteAt a := by
  cases hl : (lumaWindow s n).contains a
  · rw [afterUnit_other hn hl hu hv, afterUnit_odd_other hn hl]
  · obtain ⟨i, hi, rfl⟩ := (Region.contains_iff _ _).mp hl
    exact (afterUnit_luma hn hsize s hi hu hv).trans (afterUnit_odd_luma hn hsize s hi).symm

/-- Settles O33: for the two sizes, an even and an odd unit side by side. -/
theorem oddUnitIsEvenUnitWithoutChroma : Obligations.OddUnitIsEvenUnitWithoutChroma := by
  intro s t u n even odd hr hni ht hu
  obtain ⟨hn, hsize, heven, hodd⟩ : n % 4 = 0 ∧ n ≤ addrSpace ∧ exec even s = unitStep n (unitRoute true) s
      ∧ exec odd s = unitStep n (unitRoute false) s := by
    rcases hni with ⟨rfl, rfl, rfl⟩ | ⟨rfl, rfl, rfl⟩
    · exact ⟨rfl, by decide, rfl, rfl⟩
    · exact ⟨rfl, by decide, rfl, rfl⟩
  obtain rfl := unitStep_next_of_not_refused hr (heven.symm.trans ht)
  obtain rfl := unitStep_next_of_not_refused hr (hodd.symm.trans hu)
  exact ⟨fun a hu hv => afterUnit_even_eq_odd hn hsize hu hv, fun a hl => afterUnit_odd_other hn hl, rfl, rfl, rfl⟩

/-! ### Transaction lengths -/

/-- A transaction of the lengths that `mem_len` can name (10_state.md R22). -/
def TxnBounded (x : MemTxn) : Prop :=
  match x with
  | .read _ n data => 1 ≤ n ∧ n ≤ 32 ∧ data.length = n
  | .write _ data => 1 ≤ data.length ∧ data.length ≤ 32

theorem afterUnit_bounded {chroma : Bool} {n : Nat} (hn : n % 4 = 0) (h4 : 4 ≤ n) (h32 : n ≤ 32) (s : State) :
    ∀ x ∈ (afterUnit chroma n s).memPort, TxnBounded x := by
  cases chroma
  · rw [afterUnit_odd_frame hn]
    simp only [List.forall_mem_cons, TxnBounded, List.length_map, List.length_range]
    exact ⟨⟨by omega, h32, trivial⟩, by omega, fun x hx => absurd hx List.not_mem_nil⟩
  · rw [afterUnit_even_frame hn]
    simp only [List.forall_mem_cons, TxnBounded, List.length_map, List.length_range]
    exact ⟨⟨by omega, h32, trivial⟩, by omega, by omega, by omega, fun x hx => absurd hx List.not_mem_nil⟩

/-- The free transactions of a refused run have such lengths too (log 8). -/
theorem refusedState_bounded (s : State) : ∀ x ∈ (refusedState s).memPort, TxnBounded x := by
  intro x hx
  rcases List.mem_cons.mp hx with rfl | hx
  · have hlen : (undefinedReadBytes s.draws).length = 1 + (Config.undefinedWord s.draws 8).toNat % 32 :=
      undefinedBytes_length ..
    exact ⟨by omega, by omega, rfl⟩
  · obtain ⟨w, hw, rfl⟩ := List.mem_map.mp hx
    obtain ⟨v, -, rfl⟩ := List.mem_map.mp hw
    simp only [TxnBounded, List.length_cons, List.length_take]
    omega

/-- Settles O53: a unit's own transactions, or the free ones of a refused run. -/
theorem transactionLengthsBounded : Obligations.TransactionLengthsBounded := by
  intro s t i hi h
  obtain ⟨n, chroma, hn, h4, h32, he⟩ : ∃ n chroma, n % 4 = 0 ∧ 4 ≤ n ∧ n ≤ 32 ∧ exec i s = unitStep n (unitRoute chroma) s := by
    rcases hi with rfl | rfl | rfl | rfl
    · exact ⟨4, true, by decide, by decide, by decide, rfl⟩
    · exact ⟨32, true, by decide, by decide, by decide, rfl⟩
    · exact ⟨4, false, by decide, by decide, by decide, rfl⟩
    · exact ⟨32, false, by decide, by decide, by decide, rfl⟩
  rcases unitStep_next (he.symm.trans h) with ⟨-, rfl⟩ | ⟨-, rfl⟩
  · exact afterUnit_bounded hn h4 h32 s
  · exact refusedState_bounded s

/-! ### Refused runs -/

/-- What a converter step of a refused run leaves: a free state with the records kept. -/
theorem converterEffect_completes {s : State} (hr : s.refused ≠ none) {i : Instr} {f : State → State}
    (h : exec i s = .next (converterEffect f s)) :
    ∃ t, exec i s = .next t ∧ OnlyRecordsKept s t ∧ t.draws = s.draws + 1 ∧ ∃ u, t = refusedState u :=
  ⟨refusedState s, by rw [h, converterEffect_of_refused hr], onlyRecordsKept_refusedState s, rfl, s, rfl⟩

/-- A unit whose transactions are admitted answers its converter effect, in any run. -/
theorem unitStep_effect_of_admits {chroma : Bool} {n : Nat} (hn : n % 4 = 0) {s : State}
    (h : (s.build.admits false s.unitSrc n && s.build.admits true s.unitLuma (n / 2)
      && s.build.admits true s.unitU (chromaBytes chroma n) && s.build.admits true s.unitV (chromaBytes chroma n)) = true) :
    unitStep n (unitRoute chroma) s
      = .next (converterEffect (unitDone n (unitData n s) (unitRoute chroma s (unitData n s))) s) := by
  rcases unitStep_cases n (unitRoute chroma) s with ⟨-, e⟩ | ⟨hno, -⟩
  · exact e
  · exact absurd (((unitAdmitted_unitRoute chroma hn s).trans h).symm.trans hno) Bool.noConfusion

/-- Everything that a turn of a refused run leaves is free. -/
theorem step_of_refused {s t : State} (hr : s.refused ≠ none) (h : step s = .next t) : ∃ u, t = refusedState u := by
  rcases step_next h with ⟨i, s', u, -, -, rfl⟩ | ⟨a, s', -, rfl⟩ <;> exact ⟨_, settle_of_refused hr _⟩

theorem exec_build {i : Instr} {s t : State} (h : exec i s = .next t) : t.build = s.build := by
  obtain ⟨-, -, -, -, -, -, -, -, -, -, hbuild, -⟩ := onlyTheseChangeEachState _ _ _ h
  exact hbuild

theorem hostStep_build (a : HostAction) (s : State) : (hostStep a s).build = s.build := by
  cases a with
  | memWrite x bytes => rcases hostWrite_cases x bytes s with ⟨-, e⟩ | ⟨-, e⟩ <;>
      exact (congrArg State.build e).trans rfl
  | memRead x n => rcases hostRead_cases x n s with ⟨-, -, e⟩ | ⟨-, e⟩ <;>
      exact (congrArg State.build e).trans rfl
  | cacheClean x n => rfl
  | cacheInvalidate x n => rfl
  | reset => rfl
  | pollAgain word mask value pace =>
    rcases pollAgain_cases word mask value pace s with ⟨-, e⟩ | ⟨-, e⟩ <;> rw [hostStep, e]

/-- No step changes the build. -/
theorem step_build {s t : State} (h : step s = .next t) : t.build = s.build := by
  rcases step_next h with ⟨i, s', u, hf, he, rfl⟩ | ⟨a, s', hf, rfl⟩
  · rw [settle_build, hostLearns_build, exec_build he, fetch_state hf]
  · rw [settle_build, hostStep_build, fetch_state hf]

/-- Settles O29: the unit operations by admission, the row ends, and the free state after every turn. -/
theorem refusedStepsAreFreeButComplete : Obligations.RefusedStepsAreFreeButComplete := by
  intro s hr completes odd even
  have hcompletes {i : Instr} {f : State → State} (h : exec i s = .next (converterEffect f s)) : completes i :=
    converterEffect_completes hr h
  refine ⟨fun h => hcompletes (unitStep_effect_of_admits (chroma := true) (n := 4) rfl h),
    fun h => unitStep_fault_of_not_admits (chroma := true) (n := 4) rfl h,
    fun h => hcompletes (unitStep_effect_of_admits (chroma := true) (n := 32) rfl h),
    fun h => unitStep_fault_of_not_admits (chroma := true) (n := 32) rfl h,
    fun h => hcompletes (unitStep_effect_of_admits (chroma := false) (n := 4) rfl (admits_odd h)),
    fun h => unitStep_fault_of_not_admits (chroma := false) (n := 4) rfl (admits_odd h),
    fun h => hcompletes (unitStep_effect_of_admits (chroma := false) (n := 32) rfl (admits_odd h)),
    fun h => unitStep_fault_of_not_admits (chroma := false) (n := 32) rfl (admits_odd h),
    fun v => ⟨hcompletes rfl, hcompletes rfl⟩, fun t h => ⟨?mark, step_build h, fun hm => memoryFormKept s t hm h, step_of_refused hr h⟩⟩
  case mark =>
    obtain ⟨r, hs⟩ := Option.ne_none_iff_exists'.mp hr
    rw [hs]
    exact step_keeps_mark h hs

end Sys2Proof.Machine
end

section
/-! SUPPORT. Copying a stretch of a row: what any number of units from one `col` on leaves, as one relation that composes; the
statements about blocks, groups and rows are its instances (40_even_row_unpacker.md R132, R135, 41_odd_row_unpacker.md R150,
R154). -/

namespace Sys2Proof.Machine

/-! ### A stretch of a row -/

/-- `t` is `s` with the next `d` source bytes of the row processed: the lanes are in their windows, every other byte is as in
`s`, and besides memory only `stage`, `col` and the port have changed. -/
structure Copied (chroma : Bool) (s : State) (d : Nat) (t : State) : Prop where
  frame : t = { s with
    mem := t.mem, stage := t.stage, work := { s.work with col := s.work.col + BitVec.ofNat 32 d }, memPort := t.memPort }
  luma : ∀ i, i < d / 2 → t.byteAt (s.unitLuma + BitVec.ofNat 32 i) = s.byteAt (s.unitSrc + BitVec.ofNat 32 (2 * i))
  u : ∀ j, j < chromaBytes chroma d →
    t.byteAt (s.unitU + BitVec.ofNat 32 j) = s.byteAt (s.unitSrc + BitVec.ofNat 32 (4 * j + 1))
  v : ∀ j, j < chromaBytes chroma d →
    t.byteAt (s.unitV + BitVec.ofNat 32 j) = s.byteAt (s.unitSrc + BitVec.ofNat 32 (4 * j + 3))
  other : ∀ a, (lumaWindow s d).contains a = false → (uWindow chroma s d).contains a = false →
    (vWindow chroma s d).contains a = false → t.byteAt a = s.byteAt a

/-- The next `l` source bytes of the row and the windows they go to are pairwise disjoint, and `col` does not wrap on the
way (60_exceptions.md R236). -/
structure Separate (chroma : Bool) (s : State) (l : Nat) : Prop where
  col : s.work.col.toNat % 4 = 0
  bound : s.work.col.toNat + l ≤ addrSpace
  srcLuma : Region.disjoint ⟨s.unitSrc, l⟩ (lumaWindow s l) = true
  srcU : Region.disjoint ⟨s.unitSrc, l⟩ (uWindow chroma s l) = true
  srcV : Region.disjoint ⟨s.unitSrc, l⟩ (vWindow chroma s l) = true
  lumaU : (lumaWindow s l).disjoint (uWindow chroma s l) = true
  lumaV : (lumaWindow s l).disjoint (vWindow chroma s l) = true
  uV : (uWindow chroma s l).disjoint (vWindow chroma s l) = true

/-- The transactions of the next `l` source bytes of the row are admitted (20_memory.md R80). -/
structure Admitted (chroma : Bool) (s : State) (l : Nat) : Prop where
  src : s.build.admits false s.unitSrc l = true
  luma : s.build.admits true s.unitLuma (l / 2) = true
  u : s.build.admits true s.unitU (chromaBytes chroma l) = true
  v : s.build.admits true s.unitV (chromaBytes chroma l) = true

/-! ### The addresses of a unit further on in the row -/

theorem BitVec.div_add_ofNat {c : BitVec 32} {d k : Nat} (hk : k = 2 ∨ k = 4) (hc : c.toNat % 4 = 0) (hd : d % 4 = 0)
    (hb : c.toNat + d < addrSpace) :
    (c + BitVec.ofNat 32 d) / BitVec.ofNat 32 k = c / BitVec.ofNat 32 k + BitVec.ofNat 32 (d / k) := by
  have hk' : k < 4294967296 := by rcases hk with rfl | rfl <;> decide
  have hsum : (c + BitVec.ofNat 32 d).toNat = c.toNat + d := by
    rw [BitVec.toNat_add, BitVec.toNat_ofNat]
    simp only [addrSpace] at hb
    omega
  rw [BitVec.div_ofNat_eq _ hk', BitVec.div_ofNat_eq _ hk', hsum, ← BitVec.ofNat_add]
  congr 1
  rcases hk with rfl | rfl <;> omega

/-- Where a unit `d` source bytes further on reads and writes. -/
theorem unitAddrs_advance {s t : State} {d : Nat}
    (hw : t.work = { s.work with col := s.work.col + BitVec.ofNat 32 d }) (hcol : s.work.col.toNat % 4 = 0)
    (hd : d % 4 = 0) (hb : s.work.col.toNat + d < addrSpace) :
    t.unitSrc = s.unitSrc + BitVec.ofNat 32 d ∧ t.unitLuma = s.unitLuma + BitVec.ofNat 32 (d / 2)
    ∧ t.unitU = s.unitU + BitVec.ofNat 32 (d / 4) ∧ t.unitV = s.unitV + BitVec.ofNat 32 (d / 4) := by
  have h2 := BitVec.div_add_ofNat (k := 2) (.inl rfl) hcol hd hb
  have h4 := BitVec.div_add_ofNat (k := 4) (.inr rfl) hcol hd hb
  simp only [State.unitSrc, State.unitLuma, State.unitU, State.unitV, hw, h2, h4, BitVec.add_assoc, and_self]

/-- A later part of a chroma window lies in it. -/
theorem chromaWindow_part {chroma : Bool} {b a : Addr} {d n l : Nat} (hd : d % 4 = 0) (hdn : d + n ≤ l)
    (h : Region.contains ⟨b + BitVec.ofNat 32 (d / 4), chromaBytes chroma n⟩ a = true) :
    Region.contains ⟨b, chromaBytes chroma l⟩ a = true := by
  cases chroma
  · exact absurd ((Region.contains_iff _ _).mp h) (by simp)
  · exact Region.contains_part (by rw [chromaBytes_true, chromaBytes_true]; omega) h

/-- The bytes of a chroma window that come first are not in the part that comes later. -/
theorem chromaWindow_before {chroma : Bool} {b : Addr} {d n j : Nat} (hb : d + n ≤ addrSpace)
    (hj : j < chromaBytes chroma d) :
    Region.contains ⟨b + BitVec.ofNat 32 (d / 4), chromaBytes chroma n⟩ (b + BitVec.ofNat 32 j) = false := by
  cases chroma
  · exact absurd hj (Nat.not_lt_zero j)
  · exact Region.not_contains_before hj (by rw [chromaBytes_true]; omega)

theorem chromaBytes_mono (chroma : Bool) {d l : Nat} (h : d ≤ l) : chromaBytes chroma d ≤ chromaBytes chroma l := by
  cases chroma
  · exact Nat.le_refl 0
  · exact Nat.div_le_div_right h

/-- The windows of a later unit lie in the windows of the whole stretch. -/
structure LaterUnit (chroma : Bool) (s : State) (d n l : Nat) (t : State) : Prop where
  src : ∀ a, Region.contains ⟨t.unitSrc, n⟩ a = true → Region.contains ⟨s.unitSrc, l⟩ a = true
  luma : ∀ a, (lumaWindow t n).contains a = true → (lumaWindow s l).contains a = true
  u : ∀ a, (uWindow chroma t n).contains a = true → (uWindow chroma s l).contains a = true
  v : ∀ a, (vWindow chroma t n).contains a = true → (vWindow chroma s l).contains a = true
  srcAt : ∀ p, t.unitSrc + BitVec.ofNat 32 p = s.unitSrc + BitVec.ofNat 32 (d + p)
  lumaAt : ∀ i, t.unitLuma + BitVec.ofNat 32 i = s.unitLuma + BitVec.ofNat 32 (d / 2 + i)
  uAt : ∀ j, t.unitU + BitVec.ofNat 32 j = s.unitU + BitVec.ofNat 32 (d / 4 + j)
  vAt : ∀ j, t.unitV + BitVec.ofNat 32 j = s.unitV + BitVec.ofNat 32 (d / 4 + j)
  lumaBefore : ∀ i, i < d / 2 → (lumaWindow t n).contains (s.unitLuma + BitVec.ofNat 32 i) = false
  uBefore : ∀ j, j < chromaBytes chroma d → (uWindow chroma t n).contains (s.unitU + BitVec.ofNat 32 j) = false
  vBefore : ∀ j, j < chromaBytes chroma d → (vWindow chroma t n).contains (s.unitV + BitVec.ofNat 32 j) = false

theorem laterUnit {chroma : Bool} {s t : State} {d n l : Nat} (hcol : s.work.col.toNat % 4 = 0)
    (hbound : s.work.col.toNat + l ≤ addrSpace)
    (hw : t.work = { s.work with col := s.work.col + BitVec.ofNat 32 d }) (hd : d % 4 = 0) (hn : 0 < n) (hdn : d + n ≤ l) :
    LaterUnit chroma s d n l t := by
  obtain ⟨hsrc, hluma, hu, hv⟩ := unitAddrs_advance hw hcol hd (by omega)
  have hadd (b : Addr) (k i : Nat) : b + BitVec.ofNat 32 k + BitVec.ofNat 32 i = b + BitVec.ofNat 32 (k + i) := by
    rw [BitVec.add_assoc, BitVec.ofNat_add]
  constructor
  case src => rw [hsrc]; exact fun a h => Region.contains_part hdn h
  case luma => rw [lumaWindow, hluma]; exact fun a h => Region.contains_part (by omega) h
  case u => rw [uWindow, hu]; exact fun a h => chromaWindow_part hd hdn h
  case v => rw [vWindow, hv]; exact fun a h => chromaWindow_part hd hdn h
  case srcAt => rw [hsrc]; exact fun p => hadd _ _ _
  case lumaAt => rw [hluma]; exact fun i => hadd _ _ _
  case uAt => rw [hu]; exact fun j => hadd _ _ _
  case vAt => rw [hv]; exact fun j => hadd _ _ _
  case lumaBefore => rw [lumaWindow, hluma]; exact fun i hi => Region.not_contains_before hi (by omega)
  case uBefore => rw [uWindow, hu]; exact fun j hj => chromaWindow_before (by omega) hj
  case vBefore => rw [vWindow, hv]; exact fun j hj => chromaWindow_before (by omega) hj

theorem Region.disjoint_mono {r q r' q' : Region} (hr : ∀ a, r'.contains a = true → r.contains a = true)
    (hq : ∀ a, q'.contains a = true → q.contains a = true) (h : r.disjoint q = true) : r'.disjoint q' = true := by
  rw [Region.disjoint_iff] at h ⊢
  exact fun a ⟨h1, h2⟩ => h a ⟨hr a h1, hq a h2⟩

theorem Region.not_contains_mono {r r' : Region} {a : Addr} (hr : ∀ a, r'.contains a = true → r.contains a = true)
    (h : r.contains a = false) : r'.contains a = false :=
  Bool.eq_false_of_not_eq_true fun h' => absurd (h.symm.trans (hr a h')) Bool.noConfusion

/-- The stretch that a later unit works on is separate when the whole is. -/
theorem Separate.later {chroma : Bool} {s t : State} {d n l : Nat} (h : Separate chroma s l)
    (hw : t.work = { s.work with col := s.work.col + BitVec.ofNat 32 d }) (hd : d % 4 = 0) (hn : 0 < n) (hdn : d + n ≤ l) :
    Separate chroma t n := by
  obtain ⟨hcol, hbound, hsl, hsu, hsv, hlu, hlv, huv⟩ := h
  have hlater : LaterUnit chroma s d n l t := laterUnit hcol hbound hw hd hn hdn
  have htcol : t.work.col.toNat = s.work.col.toNat + d := by
    rw [hw, BitVec.toNat_add, BitVec.toNat_ofNat]
    simp only [addrSpace] at hbound
    omega
  exact ⟨by omega, by omega, Region.disjoint_mono hlater.src hlater.luma hsl,
    Region.disjoint_mono hlater.src hlater.u hsu, Region.disjoint_mono hlater.src hlater.v hsv,
    Region.disjoint_mono hlater.luma hlater.u hlu, Region.disjoint_mono hlater.luma hlater.v hlv,
    Region.disjoint_mono hlater.u hlater.v huv⟩

/-- A later unit's transactions are admitted when those of the whole stretch are. -/
theorem Admitted.later {chroma : Bool} {s t : State} {d n l : Nat} (h : Admitted chroma s l)
    (hcol : s.work.col.toNat % 4 = 0) (hb : s.work.col.toNat + d < addrSpace)
    (hw : t.work = { s.work with col := s.work.col + BitVec.ofNat 32 d }) (hbuild : t.build = s.build) (hd : d % 4 = 0)
    (hdn : d + n ≤ l) : Admitted chroma t n := by
  obtain ⟨hs, hl, hu, hv⟩ := h
  obtain ⟨hsrc, hluma, hutr, hvtr⟩ := unitAddrs_advance hw hcol hd hb
  have hchroma {b : Addr} (h : s.build.admits true b (chromaBytes chroma l) = true) :
      s.build.admits true (b + BitVec.ofNat 32 (d / 4)) (chromaBytes chroma n) = true := by
    cases chroma
    · rfl
    · exact Build.admits_part (by rw [chromaBytes_true, chromaBytes_true]; omega) h
  constructor
  case src => rw [hbuild, hsrc]; exact Build.admits_part hdn hs
  case luma => rw [hbuild, hluma]; exact Build.admits_part (by omega) hl
  case u => rw [hbuild, hutr]; exact hchroma hu
  case v => rw [hbuild, hvtr]; exact hchroma hv

/-! ### Stretches compose -/

theorem Copied.refl (chroma : Bool) (s : State) : Copied chroma s 0 s := by
  refine ⟨by simp, fun i hi => absurd hi (Nat.not_lt_zero i), fun j hj => ?_, fun j hj => ?_, fun _ _ _ _ => rfl⟩ <;>
    cases chroma <;> exact absurd hj (Nat.not_lt_zero j)

theorem Copied.work {chroma : Bool} {s t : State} {d : Nat} (h : Copied chroma s d t) :
    t.work = { s.work with col := s.work.col + BitVec.ofNat 32 d } := by
  rw [h.frame]

/-- A source byte of a separate stretch is not in a window, so copying leaves it. -/
theorem Copied.source_kept {chroma : Bool} {s t : State} {d l : Nat} (h : Copied chroma s d t) (hsep : Separate chroma s l)
    (hdl : d ≤ l) {p : Nat} (hp : p < l) :
    t.byteAt (s.unitSrc + BitVec.ofNat 32 p) = s.byteAt (s.unitSrc + BitVec.ofNat 32 p) := by
  have hin : Region.contains ⟨s.unitSrc, l⟩ (s.unitSrc + BitVec.ofNat 32 p) = true := Region.contains_of_lt hp
  exact h.other _
    (Region.not_contains_prefix (Nat.div_le_div_right hdl) (Region.contains_false_of_disjoint hsep.srcLuma hin))
    (Region.not_contains_prefix (chromaBytes_mono chroma hdl) (Region.contains_false_of_disjoint hsep.srcU hin))
    (Region.not_contains_prefix (chromaBytes_mono chroma hdl) (Region.contains_false_of_disjoint hsep.srcV hin))

/-- A byte of a plane after two stretches, from the two: the first stretch's bytes stay, and the second one's lie after
them. -/
theorem plane_append {t u : State} {b b' : Addr} {m k step lane d : Nat} {source source' : Nat → Byte}
    (hfirst : ∀ i, i < m → t.byteAt (b + BitVec.ofNat 32 i) = source (step * i + lane))
    (hkeep : ∀ i, i < m → u.byteAt (b + BitVec.ofNat 32 i) = t.byteAt (b + BitVec.ofNat 32 i))
    (hsecond : ∀ i, i < k → u.byteAt (b' + BitVec.ofNat 32 i) = source' (step * i + lane))
    (hat : ∀ i, b' + BitVec.ofNat 32 i = b + BitVec.ofNat 32 (m + i)) (hd : step * m = d)
    (hsource : ∀ i, i < k → source' (step * i + lane) = source (d + (step * i + lane))) :
    ∀ i, i < m + k → u.byteAt (b + BitVec.ofNat 32 i) = source (step * i + lane) := by
  intro i hi
  by_cases him : i < m
  · rw [hkeep i him, hfirst i him]
  · obtain ⟨i', rfl⟩ := Nat.exists_eq_add_of_le (Nat.le_of_not_lt him)
    have hi' : i' < k := by omega
    rw [← hat, hsecond i' hi', hsource i' hi', ← hd]
    congr 1
    ring

/-- Two stretches one after the other are one. -/
theorem Copied.trans {chroma : Bool} {s t u : State} {d n l : Nat} (ht : Copied chroma s d t) (hu : Copied chroma t n u)
    (hsep : Separate chroma s l) (hd : d % 4 = 0) (hn4 : n % 4 = 0) (hn : 0 < n) (hdn : d + n ≤ l) :
    Copied chroma s (d + n) u := by
  have hlater : LaterUnit chroma s d n l t := laterUnit hsep.col hsep.bound ht.work hd hn hdn
  have hexact : LaterUnit chroma s d n (d + n) t :=
    laterUnit hsep.col (by have := hsep.bound; omega) ht.work hd hn (Nat.le_refl _)
  have hsource (p : Nat) (hp : p < n) :
      t.byteAt (t.unitSrc + BitVec.ofNat 32 p) = s.byteAt (s.unitSrc + BitVec.ofNat 32 (d + p)) := by
    rw [hlater.srcAt]
    exact ht.source_kept hsep (by omega) (by omega)
  have hkept {a : Addr} (hl : (lumaWindow t n).contains a = false) (hua : (uWindow chroma t n).contains a = false)
      (hva : (vWindow chroma t n).contains a = false) : u.byteAt a = t.byteAt a := hu.other a hl hua hva
  constructor
  case frame =>
    rw [hu.frame, ht.frame]
    simp only [BitVec.add_assoc, ← BitVec.ofNat_add]
  case luma =>
    have hin (i : Nat) (hi : i < d / 2) : (lumaWindow s l).contains (s.unitLuma + BitVec.ofNat 32 i) = true :=
      Region.contains_of_lt (by omega)
    rw [show (d + n) / 2 = d / 2 + n / 2 by omega]
    exact plane_append (step := 2) (lane := 0) (d := d) (source := fun p => s.byteAt (s.unitSrc + BitVec.ofNat 32 p))
      (source' := fun p => t.byteAt (t.unitSrc + BitVec.ofNat 32 p)) ht.luma
      (fun i hi => hkept (hlater.lumaBefore i hi)
        (Region.not_contains_mono hlater.u (Region.contains_false_of_disjoint hsep.lumaU (hin i hi)))
        (Region.not_contains_mono hlater.v (Region.contains_false_of_disjoint hsep.lumaV (hin i hi))))
      hu.luma hlater.lumaAt (by omega) fun i hi => hsource _ (by omega)
  case u =>
    cases chroma
    · exact fun j hj => absurd hj (Nat.not_lt_zero j)
    have hin (j : Nat) (hj : j < d / 4) : (uWindow true s l).contains (s.unitU + BitVec.ofNat 32 j) = true :=
      Region.contains_of_lt (by rw [chromaBytes_true]; omega)
    rw [chromaBytes_true, show (d + n) / 4 = d / 4 + n / 4 by omega]
    exact plane_append (step := 4) (lane := 1) (d := d) (source := fun p => s.byteAt (s.unitSrc + BitVec.ofNat 32 p))
      (source' := fun p => t.byteAt (t.unitSrc + BitVec.ofNat 32 p)) ht.u
      (fun j hj => hkept (Region.not_contains_mono hlater.luma (Region.not_contains_of_disjoint hsep.lumaU (hin j hj)))
        (hlater.uBefore j hj)
        (Region.not_contains_mono hlater.v (Region.contains_false_of_disjoint hsep.uV (hin j hj))))
      hu.u hlater.uAt (by omega) fun j hj => hsource _ (by omega)
  case v =>
    cases chroma
    · exact fun j hj => absurd hj (Nat.not_lt_zero j)
    have hin (j : Nat) (hj : j < d / 4) : (vWindow true s l).contains (s.unitV + BitVec.ofNat 32 j) = true :=
      Region.contains_of_lt (by rw [chromaBytes_true]; omega)
    rw [chromaBytes_true, show (d + n) / 4 = d / 4 + n / 4 by omega]
    exact plane_append (step := 4) (lane := 3) (d := d) (source := fun p => s.byteAt (s.unitSrc + BitVec.ofNat 32 p))
      (source' := fun p => t.byteAt (t.unitSrc + BitVec.ofNat 32 p)) ht.v
      (fun j hj => hkept (Region.not_contains_mono hlater.luma (Region.not_contains_of_disjoint hsep.lumaV (hin j hj)))
        (Region.not_contains_mono hlater.u (Region.not_contains_of_disjoint hsep.uV (hin j hj))) (hlater.vBefore j hj))
      hu.v hlater.vAt (by omega) fun j hj => hsource _ (by omega)
  case other =>
    intro a hl hua hva
    rw [hkept (Region.not_contains_mono hexact.luma hl) (Region.not_contains_mono hexact.u hua)
      (Region.not_contains_mono hexact.v hva)]
    exact ht.other a (Region.not_contains_prefix (by omega) hl)
      (Region.not_contains_prefix (chromaBytes_mono chroma (by omega)) hua)
      (Region.not_contains_prefix (chromaBytes_mono chroma (by omega)) hva)

/-- A unit copies its own bytes. -/
theorem copied_afterUnit {chroma : Bool} {n : Nat} {s : State} (hsep : Separate chroma s n) (hn : n % 4 = 0)
    (hsize : n ≤ addrSpace) : Copied chroma s n (afterUnit chroma n s) := by
  refine ⟨rfl, fun i hi => ?luma, fun j hj => ?u, fun j hj => afterUnit_v hn hsize s hj,
    fun a hl hu hv => afterUnit_other hn hl hu hv⟩
  case luma =>
    have hin : (lumaWindow s n).contains (s.unitLuma + BitVec.ofNat 32 i) = true := Region.contains_of_lt hi
    exact afterUnit_luma hn hsize s hi (Region.contains_false_of_disjoint hsep.lumaU hin)
      (Region.contains_false_of_disjoint hsep.lumaV hin)
  case u =>
    have hin : (uWindow chroma s n).contains (s.unitU + BitVec.ofNat 32 j) = true := Region.contains_of_lt hj
    exact afterUnit_u hn hsize s hj (Region.contains_false_of_disjoint hsep.uV hin)

/-- What has been copied, and from where, says what every byte is. -/
theorem Copied.byteAt_eq {chroma : Bool} {s t u : State} {d : Nat} (ht : Copied chroma s d t) (hu : Copied chroma s d u)
    (a : Addr) : t.byteAt a = u.byteAt a := by
  cases hl : (lumaWindow s d).contains a
  case true =>
    obtain ⟨i, hi, rfl⟩ := (Region.contains_iff _ _).mp hl
    rw [lumaWindow, ht.luma i hi, hu.luma i hi]
  case false =>
    cases hua : (uWindow chroma s d).contains a
    case true =>
      obtain ⟨j, hj, rfl⟩ := (Region.contains_iff _ _).mp hua
      rw [uWindow, ht.u j hj, hu.u j hj]
    case false =>
      cases hva : (vWindow chroma s d).contains a
      case true =>
        obtain ⟨j, hj, rfl⟩ := (Region.contains_iff _ _).mp hva
        rw [vWindow, ht.v j hj, hu.v j hj]
      case false => rw [ht.other a hl hua hva, hu.other a hl hua hva]

/-! ### Any number of units -/

/-- A unit whose stretch is separate and admitted is done, and copies it. -/
theorem unitStep_copied {chroma : Bool} {n : Nat} {s : State} (hr : s.refused = none) (hsep : Separate chroma s n)
    (hadm : Admitted chroma s n) (hn : n % 4 = 0) (hsize : n ≤ addrSpace) :
    ∃ t, unitStep n (unitRoute chroma) s = .next t ∧ Copied chroma s n t := by
  obtain ⟨hs, hl, hu, hv⟩ := hadm
  exact ⟨_, unitStep_next_of_admits hn hr (by simp [hs, hl, hu, hv]), copied_afterUnit hsep hn hsize⟩

/-- Units in turn copy a separate and admitted stretch, after whatever of it was copied before. -/
theorem execRepeat_copied {i : Instr} {chroma : Bool} {n : Nat} (hi : ∀ t, exec i t = unitStep n (unitRoute chroma) t)
    (hn4 : n % 4 = 0) (hn : 0 < n) {s : State} {l : Nat} (hr : s.refused = none) (hsep : Separate chroma s l)
    (hadm : Admitted chroma s l) :
    ∀ (k d : Nat) (t : State), d + k * n ≤ l → d % 4 = 0 → Copied chroma s d t →
      ∃ u, execRepeat i k t = .next u ∧ Copied chroma s (d + k * n) u
  | 0, d, t, _, _, ht => ⟨t, rfl, by simpa using ht⟩
  | k + 1, d, t, hl, hd, ht => by
    have hstep : d + n + k * n = d + (k + 1) * n := by ring
    have hdn : d + n ≤ l := by omega
    have hb := hsep.bound
    have htr : t.refused = none := by rw [ht.frame]; exact hr
    have hbuild : t.build = s.build := by rw [ht.frame]
    obtain ⟨t', he, ht'⟩ := unitStep_copied htr (hsep.later ht.work hd hn hdn)
      (hadm.later hsep.col (by omega) ht.work hbuild hd hdn) hn4 (by omega)
    obtain ⟨u, hu, hcu⟩ := execRepeat_copied hi hn4 hn hr hsep hadm k (d + n) t' (by omega) (by omega)
      (ht.trans ht' hsep hd hn4 hn hdn)
    exact ⟨u, by rw [execRepeat, hi, he]; exact hu, hstep ▸ hcu⟩

/-! ### A block against eight groups -/

/-- One unit of 32 bytes and eight of 4 bytes from the same state copy the same stretch. -/
theorem block_eq_groups {block group : Instr} {chroma : Bool} {s : State}
    (hblock : ∀ t, exec block t = unitStep 32 (unitRoute chroma) t)
    (hgroup : ∀ t, exec group t = unitStep 4 (unitRoute chroma) t) (hr : s.refused = none) (hsep : Separate chroma s 32)
    (hadm : Admitted chroma s 32) :
    ∃ t u, exec block s = .next t ∧ execRepeat group 8 s = .next u ∧ (∀ a, t.byteAt a = u.byteAt a) ∧ t.work = u.work
      ∧ t.status = u.status := by
  obtain ⟨t, ht, hct⟩ := unitStep_copied hr hsep hadm rfl (by decide)
  obtain ⟨u, hu, hcu⟩ := execRepeat_copied hgroup rfl (by decide) hr hsep hadm 8 0 s (by decide) rfl (Copied.refl chroma s)
  refine ⟨t, u, (hblock s).trans ht, hu, hct.byteAt_eq hcu, hct.work.trans hcu.work.symm, ?_⟩
  rw [hct.frame, hcu.frame]

/-- Settles O31: the two ways copy the same stretch of 32 bytes of an even row. -/
theorem blockEvenIsEightGroups : Obligations.BlockEvenIsEightGroups :=
  fun _ hr hcol hb hs hl hu hv hsl hsu hsv hlu hlv huv =>
    block_eq_groups exec_blockEven exec_groupEven hr ⟨hcol, hb, hsl, hsu, hsv, hlu, hlv, huv⟩ ⟨hs, hl, hu, hv⟩

theorem Region.disjoint_empty (r : Region) (b : Addr) : r.disjoint ⟨b, 0⟩ = true := by simp [Region.disjoint]

/-- In an odd row only the source and luma windows matter. -/
theorem separate_odd {s : State} {l : Nat} (hcol : s.work.col.toNat % 4 = 0) (hb : s.work.col.toNat + l ≤ addrSpace)
    (hsl : Region.disjoint ⟨s.unitSrc, l⟩ (lumaWindow s l) = true) : Separate false s l :=
  ⟨hcol, hb, hsl, Region.disjoint_empty .., Region.disjoint_empty .., Region.disjoint_empty .., Region.disjoint_empty ..,
    Region.disjoint_empty ..⟩

/-- Settles O32: the two ways copy the luma of the same stretch. -/
theorem blockOddIsEightGroups : Obligations.BlockOddIsEightGroups :=
  fun _ hr hcol hb hs hl hsl =>
    block_eq_groups exec_blockOdd exec_groupOdd hr (separate_odd hcol hb hsl) ⟨hs, hl, rfl, rfl⟩

/-! ### A row is its units -/

theorem runUnits_succ_of_next {n k : Nat} {route : State → List Byte → UnitWrites} {s t u : State}
    (ht : unitStep n route s = .next t) (hu : runUnits n route k t = .next u) : runUnits n route (k + 1) s = .next u := by
  rw [runUnits, ht]
  simp only [hu]

theorem runUnits_succ_of_stuck {n k : Nat} {route : State → List Byte → UnitWrites} {s t : State}
    (ht : unitStep n route s = .next t) (hu : runUnits n route k t = .fault .notAdmitted) :
    runUnits n route (k + 1) s = .next t := by
  rw [runUnits, ht]
  simp only [hu]

theorem runUnits_stuck {n k : Nat} {route : State → List Byte → UnitWrites} {s : State}
    (h : unitStep n route s = .fault .notAdmitted) : runUnits n route (k + 1) s = .fault .notAdmitted := by
  rw [runUnits, h]

/-- An instruction repeated: its first time and the rest. -/
theorem execRepeat_succ_next {i : Instr} {k : Nat} {s u : State} (h : execRepeat i (k + 1) s = .next u) :
    ∃ t, exec i s = .next t ∧ execRepeat i k t = .next u := by
  rw [execRepeat] at h
  cases he : exec i s with
  | next t => rw [he] at h; exact ⟨t, rfl, h⟩
  | fault r => rw [he] at h; cases h
  | refused r => rw [he] at h; cases h

/-- When all its units answer, a row does them all. -/
theorem runUnits_of_execRepeat {i : Instr} {n : Nat} {route : State → List Byte → UnitWrites}
    (hi : ∀ t, exec i t = unitStep n route t) :
    ∀ (k : Nat) (s t : State), execRepeat i k s = .next t → runUnits n route k s = .next t
  | 0, _, _, h => h
  | k + 1, s, t, h => by
    obtain ⟨s', he, h'⟩ := execRepeat_succ_next h
    exact runUnits_succ_of_next ((hi s).symm.trans he) (runUnits_of_execRepeat hi k s' t h')

/-- When a later unit is stuck, a row does the units before it. -/
theorem runUnits_of_stuck_later {i : Instr} {n : Nat} {route : State → List Byte → UnitWrites}
    (hi : ∀ t, exec i t = unitStep n route t) {t : State} (hstuck : exec i t = .fault .notAdmitted) :
    ∀ (k m : Nat) (s : State), execRepeat i (k + 1) s = .next t → runUnits n route (k + 1 + (m + 1)) s = .next t
  | 0, m, s, h => by
    obtain ⟨s', he, h'⟩ := execRepeat_succ_next h
    obtain rfl := Host.Outcome.next.inj h'
    rw [Nat.add_comm]
    exact runUnits_succ_of_stuck ((hi s).symm.trans he) (runUnits_stuck ((hi _).symm.trans hstuck))
  | k + 1, m, s, h => by
    obtain ⟨s', he, h'⟩ := execRepeat_succ_next h
    rw [show k + 1 + 1 + (m + 1) = k + 1 + (m + 1) + 1 by omega]
    exact runUnits_succ_of_next ((hi s).symm.trans he) (runUnits_of_stuck_later hi hstuck k m s' h')

/-- A run of units whose first is not stuck answers a next state. -/
theorem runUnits_exists {n k : Nat} {route : State → List Byte → UnitWrites} {s : State}
    (h : unitAdmitted n (route s (unitData n s)) s = true) : ∃ t, runUnits n route k s = .next t := by
  cases k with
  | zero => exact ⟨s, rfl⟩
  | succ k =>
    rcases runUnits_cases n route k s with ⟨hno, -⟩ | ⟨-, ⟨u, -, e⟩ | ⟨-, e⟩⟩
    · exact absurd (h.symm.trans hno) Bool.noConfusion
    · exact ⟨_, e⟩
    · exact ⟨_, e⟩

/-- A row operation that runs the units left is its units in turn, in every run. -/
theorem rowIsItsUnits {row unit : Instr} {n : Nat} {route : State → List Byte → UnitWrites} {admitted : Bool} {s : State}
    (hrow : exec row s = runUnits n route (unitsLeft s) s) (hunit : ∀ t, exec unit t = unitStep n route t)
    (hadm : admitted = unitAdmitted n (route s (unitData n s)) s) : RowIsItsUnits row unit admitted s := by
  refine ⟨fun t h => hrow.trans (runUnits_of_execRepeat hunit _ s t h), fun k t hk hkl h hstuck => ?later,
    fun hne hno => ?stuck, fun hzero => ?done, fun hyes => ?answers⟩
  case later =>
    obtain ⟨k, rfl⟩ := Nat.exists_eq_succ_of_ne_zero (Nat.ne_of_gt hk)
    obtain ⟨m, hm⟩ := Nat.exists_eq_add_of_lt hkl
    rw [hrow, hm]
    exact runUnits_of_stuck_later hunit hstuck k m s h
  case stuck =>
    obtain ⟨k, hk⟩ := Nat.exists_eq_succ_of_ne_zero hne
    rw [hrow, hk]
    exact runUnits_stuck (unitStep_of_not_admitted (hadm.symm.trans hno))
  case done => rw [hrow, hzero]; rfl
  case answers =>
    obtain ⟨t, ht⟩ := runUnits_exists (k := unitsLeft s) (hadm.symm.trans hyes)
    obtain ⟨hbuild, hrefused, -⟩ := runUnits_records ht
    refine ⟨t, hrow.trans ht, hrefused, hbuild, fun hr => ?_⟩
    rw [runUnits_unchanged hr ht]
    exact ⟨rfl, rfl⟩

theorem unitBytes_mod (st : Strategy) : st.unitBytes % 4 = 0 := by cases st <;> rfl
theorem unitBytes_pos (st : Strategy) : 0 < st.unitBytes := by cases st <;> decide

theorem exec_evenUnit (st : Strategy) (t : State) : exec (evenUnit st) t = unitStep st.unitBytes (unitRoute true) t := by
  cases st <;> rfl

theorem exec_oddUnit (st : Strategy) (t : State) : exec (oddUnit st) t = unitStep st.unitBytes (unitRoute false) t := by
  cases st <;> rfl

theorem exec_rowEven (s : State) : exec .rowEven s = runUnits s.build.strategy.unitBytes (unitRoute true) (unitsLeft s) s := rfl
theorem exec_rowOdd (s : State) : exec .rowOdd s = runUnits s.build.strategy.unitBytes (unitRoute false) (unitsLeft s) s := rfl

/-! ### The row contracts -/

/-- A multiple of 4 is one of the unit size of every build. -/
theorem mod_four_of_mod_unitBytes {st : Strategy} {k : Nat} (h : k % st.unitBytes = 0) : k % 4 = 0 := by
  cases st
  · exact h
  · exact Nat.mod_mod_of_dvd k (by decide : 4 ∣ 32) ▸ congrArg (· % 4) h

/-- The rest of a row, done by a row operation, is one stretch. -/
theorem row_copied {row unit : Instr} {chroma : Bool} {s : State}
    (hrow : exec row s = runUnits s.build.strategy.unitBytes (unitRoute chroma) (unitsLeft s) s)
    (hunit : ∀ t, exec unit t = unitStep s.build.strategy.unitBytes (unitRoute chroma) t) (hr : s.refused = none)
    (hstride : s.work.rowStride.toNat % s.build.strategy.unitBytes = 0)
    (hcol : s.work.col.toNat % s.build.strategy.unitBytes = 0)
    (hsep : Separate chroma s (s.work.rowStride.toNat - s.work.col.toNat))
    (hadm : Admitted chroma s (s.work.rowStride.toNat - s.work.col.toNat)) :
    ∃ t, exec row s = .next t ∧ Copied chroma s (s.work.rowStride.toNat - s.work.col.toNat) t := by
  have hdvd : s.build.strategy.unitBytes ∣ s.work.rowStride.toNat - s.work.col.toNat :=
    Nat.dvd_sub (Nat.dvd_of_mod_eq_zero hstride) (Nat.dvd_of_mod_eq_zero hcol)
  have hleft : unitsLeft s * s.build.strategy.unitBytes = s.work.rowStride.toNat - s.work.col.toNat :=
    Nat.div_mul_cancel hdvd
  obtain ⟨t, ht, hc⟩ := execRepeat_copied hunit (unitBytes_mod _) (unitBytes_pos _) hr hsep hadm (unitsLeft s) 0 s
    (by omega) rfl (Copied.refl chroma s)
  rw [Nat.zero_add, hleft] at hc
  exact ⟨t, hrow.trans (runUnits_of_execRepeat hunit _ s t ht), hc⟩

/-- At the end of the row `col` is `s_l`. -/
theorem col_add_left {s : State} (h : s.work.col.toNat ≤ s.work.rowStride.toNat) :
    s.work.col + BitVec.ofNat 32 (s.work.rowStride.toNat - s.work.col.toNat) = s.work.rowStride := by
  apply BitVec.eq_of_toNat_eq
  have := s.work.rowStride.isLt
  rw [BitVec.toNat_add, BitVec.toNat_ofNat]
  omega

/-- What a copied rest of a row leaves of the state. -/
theorem Copied.row_frame {chroma : Bool} {s t : State} (h : s.work.col.toNat ≤ s.work.rowStride.toNat)
    (hc : Copied chroma s (s.work.rowStride.toNat - s.work.col.toNat) t) :
    rowDone t = true
    ∧ t = { s with mem := t.mem, stage := t.stage, work := { s.work with col := s.work.rowStride }, memPort := t.memPort } := by
  have hf := hc.frame
  rw [col_add_left h] at hf
  exact ⟨by rw [rowDone_iff, hf], hf⟩

/-- A window each of whose bytes is admitted is admitted as a transaction. -/
theorem admits_of_window {b : Build} {w : Bool} {a : Addr} {n : Nat}
    (h : ∀ x, Region.contains ⟨a, n⟩ x = true → b.admitsByte w x = true) : b.admits w a n = true :=
  (Build.admits_iff ..).mpr fun _ hi => h _ (Region.contains_of_lt hi)

/-- Settles O34: the rest of an even row is one stretch; in every run it is its units in turn. -/
theorem rowEvenContract : Obligations.RowEvenContract := by
  refine ⟨fun s hr => ?contract, fun s => ?units⟩
  case contract =>
    intro left src luma u v hstride hcol hle hsl hsu hsv hlu hlv huv hread hwrite
    have hb := s.work.rowStride.isLt
    have hsep : Separate true s left :=
      ⟨mod_four_of_mod_unitBytes hcol, by simp only [left, addrSpace]; omega, hsl, hsu, hsv, hlu, hlv, huv⟩
    have hadm : Admitted true s left :=
      ⟨admits_of_window hread, admits_of_window fun a h => hwrite a (.inl h),
        admits_of_window fun a h => hwrite a (.inr (.inl h)), admits_of_window fun a h => hwrite a (.inr (.inr h))⟩
    obtain ⟨t, ht, hc⟩ := row_copied (exec_rowEven s) (exec_evenUnit s.build.strategy) hr hstride hcol hsep hadm
    exact ⟨t, ht, hc.luma, fun j hj => ⟨hc.u j hj, hc.v j hj⟩, hc.other, hc.row_frame hle⟩
  case units =>
    refine rowIsItsUnits (exec_rowEven s) (exec_evenUnit _) ?_
    rw [unitAdmitted_unitRoute true (unitBytes_mod _)]
    rfl

/-- Settles O35: the rest of an odd row is one stretch of luma; in every run it is its units in turn. -/
theorem rowOddContract : Obligations.RowOddContract := by
  refine ⟨fun s hr => ?contract, fun s => ?units⟩
  case contract =>
    intro left src luma hstride hcol hle hsl hread hwrite
    have hb := s.work.rowStride.isLt
    have hsep : Separate false s left :=
      separate_odd (mod_four_of_mod_unitBytes hcol) (by simp only [left, addrSpace]; omega) hsl
    have hadm : Admitted false s left := ⟨admits_of_window hread, admits_of_window hwrite, rfl, rfl⟩
    obtain ⟨t, ht, hc⟩ := row_copied (exec_rowOdd s) (exec_oddUnit s.build.strategy) hr hstride hcol hsep hadm
    exact ⟨t, ht, hc.luma, fun a hl => hc.other a hl (uWindow_odd_contains ..) (vWindow_odd_contains ..), hc.row_frame hle⟩
  case units =>
    refine rowIsItsUnits (exec_rowOdd s) (exec_oddUnit _) ?_
    rw [unitAdmitted_unitRoute false (unitBytes_mod _)]
    exact (admits_odd rfl).symm

end Sys2Proof.Machine
end

section
/-! SUPPORT. Everything a step that the rules determine can do to the frame in progress, once; and from it the invariants of
10_state.md R58 and the pointer values of 42_frame_iterator.md R183. -/

namespace Sys2Proof.Machine

/-! ### Everything a step can do to the frame -/

/-- The ways in which a step that the rules determine can change what the frame claims look at: STATUS, the working
registers, the conversion and memory. -/
inductive FrameStep (s t : State) : Prop
  | quiet (hbuild : t.build = s.build) (hwork : t.work = s.work) (hconv : t.conv = s.conv)
      (hstatus : t.status = { s.status with cmdIgnored := t.status.cmdIgnored })
      (hmem : ∀ a, HitsRunning s a → t.byteAt a = s.byteAt a)
  | started (hb : s.status.busy = false) (hg : geomCause s.build.strategy s.cfg.stride s.cfg.height = 0#5)
      (hbuild : t.build = s.build) (hwork : t.work = (latchFrame s).work)
      (hstatus : t.status = { busy := true, done := false, err := false, cmdIgnored := s.status.cmdIgnored, phase := false,
                              geomCause := 0#5, errCode := 0#4 })
      (hconv : t.conv = some (latched s)) (hmem : t.mem = s.mem)
      (hprem : t.refused = none → (latched s).premisesHold = true)
  | failed (hb : s.status.busy = false) (hg : geomCause s.build.strategy s.cfg.stride s.cfg.height ≠ 0#5)
      (hstatus : t.status = { s.status with
        done := false, err := true, errCode := 0x1#4
        geomCause := geomCause s.build.strategy s.cfg.stride s.cfg.height })
  | cleared (hb : s.status.busy = false) (hstatus : t.status = (acceptClear s).status)
  | units (rest : List Turn) (k : Nat) (hb : s.status.busy = true)
      (hk : k = unitsLeft s ∨ (k = 1 ∧ rowDone s = false))
      (hrun : runUnits s.build.strategy.unitBytes (unitRoute (!s.status.phase)) k { s with schedule := rest } = .next t)
  | evenEnd (rest : List Turn) (hb : s.status.busy = true) (hd : rowDone s = true) (hp : s.status.phase = false)
      (ht : t = advanceEven { s with schedule := rest })
  | oddEnd (rest : List Turn) (hb : s.status.busy = true) (hd : rowDone s = true) (hp : s.status.phase = true)
      (ht : t = advanceOdd { s with schedule := rest })
  | reset (hstatus : t.status = Status.reset)

theorem hostLearns_of_not_read {i : Instr} (hi : isRead i = false) (s : State) : hostLearns i s = s :=
  hostLearns_of_not_rdStatus (fun _ _ e => Bool.noConfusion ((congrArg isRead e).symm.trans hi)) s

theorem isRead_of_isUnpack {i : Instr} (h : isUnpack i = true) : isRead i = false := by
  unfold isUnpack at h
  split at h
  case h_7 => exact Bool.noConfusion h
  all_goals rfl

theorem acceptStart_conv_of_pass {s : State} (hg : geomCause s.build.strategy s.cfg.stride s.cfg.height = 0#5) :
    (acceptStart s).conv = some (latched s) := by
  rw [acceptStart_of_pass hg, frameStart_conv]; rfl

theorem acceptStart_work_of_pass {s : State} (hg : geomCause s.build.strategy s.cfg.stride s.cfg.height = 0#5) :
    (acceptStart s).work = (latchFrame s).work := by
  rw [acceptStart_of_pass hg, frameStart_work]; rfl

theorem acceptStart_build (s : State) : (acceptStart s).build = s.build := by rw [acceptStart_frame]

/-- A frame start that leaves the run not refused has its premises. -/
theorem acceptStart_premises {s : State} (hg : geomCause s.build.strategy s.cfg.stride s.cfg.height = 0#5)
    (h : (acceptStart s).refused = none) : (latched s).premisesHold = true := by
  refine Bool.eq_true_of_not_eq_false fun hp => ?_
  have hp' : (latched (clearOutcome s)).premisesHold = false := hp
  rw [acceptStart_of_pass hg, frameStart_refused, hp'] at h
  revert h
  split <;> exact fun h => Option.some_ne_none _ h

theorem step_frameStep {s t : State} (h : step s = .next t) (hd : Determinate s t) : FrameStep s t := by
  obtain ⟨hr, ⟨i, s', u, hf, he, rfl⟩ | ⟨a, s', hf, he⟩⟩ := step_determinate h hd
  · have hs' := fetch_state hf
    have hr' : s'.refused = none := (fetch_refused hf).trans hr
    generalize s'.schedule = rest at hs'
    subst hs'
    have hquiet (hbuild : u.build = s.build) (hwork : u.work = s.work) (hconv : u.conv = s.conv) (hmem : u.mem = s.mem)
        (hstatus : u.status = { s.status with cmdIgnored := u.status.cmdIgnored }) : FrameStep s (hostLearns i u) := by
      refine .quiet ?_ ?_ ?_ ?_ fun a _ => ?_
      · rw [hostLearns_build, hbuild]
      · rw [hostLearns_work, hwork]
      · rw [hostLearns_conv, hconv]
      · rw [hostLearns_status]; exact hstatus
      · rw [State.byteAt, State.byteAt, hostLearns_mem, hmem]
    cases exec_effect he with
    | nothing => exact hquiet rfl rfl rfl rfl rfl
    | answer => exact hquiet rfl rfl rfl rfl rfl
    | control => exact hquiet rfl rfl rfl rfl rfl
    | config => exact hquiet rfl rfl rfl rfl rfl
    | ignore => exact hquiet rfl rfl rfl rfl rfl
    | start lo hb =>
      rw [hostLearns_of_not_read rfl]
      by_cases hg : geomCause s.build.strategy s.cfg.stride s.cfg.height = 0#5
      · exact .started hb hg (acceptStart_build _) (acceptStart_work_of_pass hg) (acceptStart_status_of_pass hg)
          (acceptStart_conv_of_pass hg) (acceptStart_mem _) (acceptStart_premises hg)
      · exact .failed hb hg (acceptStart_status_of_fail hg)
    | clear lo hb => exact .cleared hb rfl
    | unpack hi =>
      obtain ⟨hb, k, hk, hrun⟩ := fetch_unpack hf hi
      rw [hostLearns_of_not_read (isRead_of_isUnpack hi)]
      exact .units rest k hb hk (hrun.symm.trans he)
    | evenEnd vec =>
      obtain ⟨hb, hdone, v, hv⟩ := fetch_advance hf rfl
      rw [converterEffect_of_not_refused hr', hostLearns_of_not_read rfl]
      refine .evenEnd rest hb hdone (Bool.eq_false_of_not_eq_true fun hp => ?_) rfl
      rw [if_pos hp] at hv; cases hv
    | oddEnd vec =>
      obtain ⟨hb, hdone, v, hv⟩ := fetch_advance hf rfl
      rw [converterEffect_of_not_refused hr', hostLearns_of_not_read rfl]
      refine .oddEnd rest hb hdone (Bool.eq_true_of_not_eq_false fun hp => ?_) rfl
      rw [hp] at hv; cases hv
  · have hs' := fetch_state hf
    generalize s'.schedule = rest at hs'
    subst hs'
    cases he with
    | write x bytes hout ht =>
      rw [ht]
      refine .quiet rfl rfl rfl rfl fun a ha => Memory.read_writeBytes_other s.mem x a bytes fun k hk e => ?_
      exact hout k hk (e ▸ ha)
    | records _ ht => rw [ht]; exact .quiet rfl rfl rfl rfl fun _ _ => rfl
    | reset => exact .reset rfl

/-! ### The invariants (a) to (g) -/

theorem statusInvariant_reset {s : State} (h : s.status = Status.reset) : StatusInvariant s := by
  rw [StatusInvariant, h]
  simp [Status.reset]

/-- Outside BUSY the invariants are about STATUS alone. -/
theorem statusInvariant_of_idle {s : State} (hb : s.status.busy = false)
    (herr : s.status.err = true ↔ s.status.errCode ≠ 0#4) (hcause : s.status.geomCause ≠ 0#5 ↔ s.status.err = true)
    (hdone : s.status.done = true → s.status.err = false) (hphase : s.status.phase = false) : StatusInvariant s := by
  have hno {p : Prop} (h : s.status.busy = true) : p := Bool.noConfusion (hb.symm.trans h)
  exact ⟨herr, hcause, hno, hdone, fun _ => hphase, hno, hno⟩

/-- Two passing geometries' pair count: half the height, and twice it is the height again. -/
theorem pairs_of_even {h : Word} (he : h.toNat % 2 = 0) : (h / 2#32).toNat = h.toNat / 2 ∧ 2#32 * (h / 2#32) = h := by
  have hdiv : (h / 2#32).toNat = h.toNat / 2 := by rw [BitVec.toNat_udiv]; rfl
  refine ⟨hdiv, BitVec.eq_of_toNat_eq ?_⟩
  have := h.isLt
  rw [BitVec.toNat_mul, hdiv, BitVec.toNat_ofNat]
  omega

/-- The frame start establishes the invariants. -/
theorem statusInvariant_started {s t : State} (hg : geomCause s.build.strategy s.cfg.stride s.cfg.height = 0#5)
    (hbuild : t.build = s.build) (hwork : t.work = (latchFrame s).work) {ign : Bool}
    (hstatus : t.status = { busy := true, done := false, err := false, cmdIgnored := ign, phase := false,
                            geomCause := 0#5, errCode := 0#4 }) : StatusInvariant t := by
  obtain ⟨-, hh, -, heven, -⟩ := (geomCause_eq_zero_iff _ _ _).mp hg
  obtain ⟨hpairs, htwice⟩ := pairs_of_even heven
  have hpos : s.cfg.height.toNat ≠ 0 := fun e => hh (BitVec.eq_of_toNat_eq e)
  rw [StatusInvariant, hstatus, hwork, hbuild, latchFrame_work]
  refine ⟨by simp, by simp, by simp, by simp, by simp, fun _ => ⟨Nat.zero_mod _, Nat.zero_le _, ?_⟩, fun _ => ?_⟩
  · show 0 < (s.cfg.height / 2#32).toNat
    omega
  · show geomCause s.build.strategy s.cfg.stride (2#32 * (s.cfg.height / 2#32)) = 0#5
    rw [htwice, hg]

/-- What the invariants say of a conversion in progress. -/
structure InRow (s : State) : Prop where
  done : s.status.done = false
  err : s.status.err = false
  colMod : s.work.col.toNat % s.build.strategy.unitBytes = 0
  colLe : s.work.col.toNat ≤ s.work.rowStride.toNat
  pair : s.work.pairCnt.toNat < s.work.pairsL.toNat
  strideMod : s.work.rowStride.toNat % s.build.strategy.unitBytes = 0

/-- The turns still to come do not matter to the row in progress. -/
theorem InRow.withSchedule {s : State} (h : InRow s) (rest : List Turn) : InRow { s with schedule := rest } :=
  ⟨h.done, h.err, h.colMod, h.colLe, h.pair, h.strideMod⟩

theorem StatusInvariant.inRow {s : State} (h : StatusInvariant s) (hb : s.status.busy = true) : InRow s := by
  obtain ⟨-, -, hc, -, -, hf, hg⟩ := h
  obtain ⟨hdone, herr⟩ := hc hb
  obtain ⟨hmod, hle, hpair⟩ := hf hb
  exact ⟨hdone, herr, hmod, hle, hpair, geomCause_unitBytes (hg hb)⟩

/-- A row that is not done has a unit left. -/
theorem unitsLeft_pos {s : State} (h : InRow s) (hd : rowDone s = false) : 1 ≤ unitsLeft s := by
  have hne : s.work.col.toNat ≠ s.work.rowStride.toNat := fun e =>
    Bool.noConfusion (hd.symm.trans ((rowDone_iff s).mpr (BitVec.eq_of_toNat_eq e)))
  have hdvd : s.build.strategy.unitBytes ∣ s.work.rowStride.toNat - s.work.col.toNat :=
    Nat.dvd_sub (Nat.dvd_of_mod_eq_zero h.strideMod) (Nat.dvd_of_mod_eq_zero h.colMod)
  have hle := h.colLe
  exact (Nat.one_le_div_iff (unitBytes_pos _)).mpr (Nat.le_of_dvd (by omega) hdvd)

/-- The units that a step does are left in the row. -/
theorem units_le_left {s : State} (h : InRow s) {k : Nat} (hk : k = unitsLeft s ∨ (k = 1 ∧ rowDone s = false)) :
    k ≤ unitsLeft s := by
  rcases hk with rfl | ⟨rfl, hd⟩
  · exact Nat.le_refl _
  · exact unitsLeft_pos h hd

/-- `col` after some of the units left: no wrap, and not past the end of the row. -/
theorem col_add_units {s : State} (h : InRow s) {j : Nat} (hj : j ≤ unitsLeft s) :
    s.work.col.toNat + j * s.build.strategy.unitBytes ≤ s.work.rowStride.toNat
    ∧ (s.work.col + BitVec.ofNat 32 (j * s.build.strategy.unitBytes)).toNat
      = s.work.col.toNat + j * s.build.strategy.unitBytes := by
  have hle : j * s.build.strategy.unitBytes ≤ s.work.rowStride.toNat - s.work.col.toNat :=
    (Nat.mul_le_mul_right _ hj).trans (Nat.div_mul_le_self _ _)
  have hcol := h.colLe
  have := s.work.rowStride.isLt
  rw [BitVec.toNat_add, BitVec.toNat_ofNat]
  omega

/-- The position after a run of some of the units left: `col` moves on within the row, the rest stays. -/
theorem runUnits_position {s t : State} (hr : s.refused = none) {k : Nat} {chroma : Bool}
    (hrun : runUnits s.build.strategy.unitBytes (unitRoute chroma) k s = .next t) :
    t.status = s.status ∧ t.build = s.build ∧ t.conv = s.conv
    ∧ ∃ j, j ≤ k ∧ t.work = { s.work with col := s.work.col + BitVec.ofNat 32 (j * s.build.strategy.unitBytes) } := by
  obtain ⟨j, hj, e⟩ := runUnits_frame k s t hr hrun
  have hstatus : t.status = s.status := by rw [e]
  have hbuild : t.build = s.build := by rw [e]
  have hconv : t.conv = s.conv := by rw [e]
  exact ⟨hstatus, hbuild, hconv, j, hj, by rw [e]⟩

theorem statusInvariant_units {s t : State} (hinv : StatusInvariant s) (hr : s.refused = none) (hb : s.status.busy = true)
    {k : Nat} {chroma : Bool} (hk : k ≤ unitsLeft s)
    (hrun : runUnits s.build.strategy.unitBytes (unitRoute chroma) k s = .next t) : StatusInvariant t := by
  have hrow := hinv.inRow hb
  obtain ⟨hstatus, hbuild, -, j, hj, hwork⟩ := runUnits_position hr hrun
  obtain ⟨hle, hnat⟩ := col_add_units hrow (hj.trans hk)
  obtain ⟨ha, hbb, hc, hd, he, -, hg⟩ := hinv
  rw [StatusInvariant, hstatus, hbuild, hwork]
  refine ⟨ha, hbb, hc, hd, he, fun _ => ⟨?_, ?_, hrow.pair⟩, hg⟩
  · rw [hnat, Nat.add_mul_mod_self_right]
    exact hrow.colMod
  · rw [hnat]
    exact hle

theorem statusInvariant_evenEnd {s : State} (hinv : StatusInvariant s) (hb : s.status.busy = true) :
    StatusInvariant (advanceEven s) := by
  have hrow := hinv.inRow hb
  obtain ⟨ha, hbb, hc, hd, -, -, hg⟩ := hinv
  exact ⟨ha, hbb, hc, hd, fun h => Bool.noConfusion (hb.symm.trans h),
    fun _ => ⟨Nat.zero_mod _, Nat.zero_le _, hrow.pair⟩, hg⟩

/-- PAIR_CNT after an odd row: it does not wrap, and it has not reached `pairs_l` unless the pair was the last. -/
theorem pairCnt_succ {s : State} (h : InRow s) :
    (s.work.pairCnt + 1#32).toNat = s.work.pairCnt.toNat + 1
    ∧ (lastPair s = true ↔ s.work.pairCnt.toNat + 1 = s.work.pairsL.toNat) := by
  have hlt := h.pair
  have := s.work.pairsL.isLt
  have hnat : (s.work.pairCnt + 1#32).toNat = s.work.pairCnt.toNat + 1 := by
    rw [BitVec.toNat_add, BitVec.toNat_ofNat]
    omega
  rw [lastPair_iff, ← hnat]
  exact ⟨rfl, congrArg BitVec.toNat, BitVec.eq_of_toNat_eq⟩

theorem advanceOdd_of_last {s : State} (h : lastPair s = true) :
    (advanceOdd s).status = { s.status with phase := false, busy := false, done := true } := by
  rw [advanceOdd_status, h]; rfl

theorem advanceOdd_of_more {s : State} (h : lastPair s = false) :
    (advanceOdd s).status = { s.status with phase := false } := by
  rw [advanceOdd_status, h]; rfl

theorem statusInvariant_oddEnd {s : State} (hinv : StatusInvariant s) (hb : s.status.busy = true) :
    StatusInvariant (advanceOdd s) := by
  have hrow := hinv.inRow hb
  obtain ⟨hnat, hlast⟩ := pairCnt_succ hrow
  obtain ⟨ha, hbb, hc, hd, -, -, hg⟩ := hinv
  cases hl : lastPair s
  case true =>
    have hs := advanceOdd_of_last hl
    refine statusInvariant_of_idle ?_ ?_ ?_ ?_ ?_ <;> rw [hs]
    · exact ha
    · exact hbb
    · exact fun _ => hrow.err
  case false =>
    rw [StatusInvariant, advanceOdd_of_more hl, advanceOdd_work, advanceOdd_build]
    refine ⟨ha, hbb, hc, hd, fun _ => rfl, fun _ => ⟨Nat.zero_mod _, Nat.zero_le _, ?_⟩, hg⟩
    have hlt := hrow.pair
    have hne : s.work.pairCnt.toNat + 1 ≠ s.work.pairsL.toNat := fun e =>
      Bool.noConfusion (hl.symm.trans (hlast.mpr e))
    show (s.work.pairCnt + 1#32).toNat < s.work.pairsL.toNat
    omega

/-- Every step that the rules determine keeps the invariants. -/
theorem statusInvariant_step {s t : State} (hinv : StatusInvariant s) (hr : s.refused = none) (h : FrameStep s t) :
    StatusInvariant t := by
  cases h with
  | quiet hbuild hwork hconv hstatus hmem => rw [StatusInvariant, hbuild, hwork, hstatus]; exact hinv
  | started hb hg hbuild hwork hstatus => exact statusInvariant_started hg hbuild hwork hstatus
  | failed hb hg hstatus =>
    obtain ⟨-, -, -, -, he, -, -⟩ := hinv
    refine statusInvariant_of_idle ?_ ?_ ?_ ?_ ?_ <;> rw [hstatus]
    · exact hb
    · simp
    · exact iff_of_true hg rfl
    · exact fun h => Bool.noConfusion h
    · exact he hb
  | cleared hb hstatus =>
    obtain ⟨-, -, -, -, he, -, -⟩ := hinv
    rw [acceptClear_status] at hstatus
    refine statusInvariant_of_idle ?_ ?_ ?_ ?_ ?_ <;> rw [hstatus]
    · exact hb
    · simp
    · simp
    · exact fun h => Bool.noConfusion h
    · exact he hb
  | units rest k hb hk hrun =>
    exact statusInvariant_units (s := { s with schedule := rest }) hinv hr hb (units_le_left (hinv.inRow hb) hk) hrun
  | evenEnd rest hb hd hp ht => rw [ht]; exact statusInvariant_evenEnd (s := { s with schedule := rest }) hinv hb
  | oddEnd rest hb hd hp ht => rw [ht]; exact statusInvariant_oddEnd (s := { s with schedule := rest }) hinv hb
  | reset hstatus => exact statusInvariant_reset hstatus

/-- A step that the rules determine starts in a run that is not refused. -/
theorem not_refused_of_determinate {s t : State} (h : step s = .next t) (hd : Determinate s t) : s.refused = none := by
  obtain ⟨hr, -⟩ := step_determinate h hd
  exact hr

/-- Settles O44: each of the ways in which a step can change the frame keeps the invariants. -/
theorem statusInvariantKept : Obligations.StatusInvariantKept := by
  intro s t hinv h hd
  have hr := not_refused_of_determinate h hd
  exact statusInvariant_step (hinv hr) hr (step_frameStep h hd)

/-! ### The pointer values -/

/-- What the pointer values say of a state with a record of its conversion: the registers by the row in progress. -/
structure AtRow (c : Conversion) (s : State) : Prop where
  stride : s.work.rowStride = c.stride
  pairs : 2 * s.work.pairsL.toNat = c.height.toNat
  src : s.work.srcPtr = c.srcBase + BitVec.ofNat 32 (rowIndex s * c.stride.toNat)
  luma : s.work.lumaPtr = c.lumaBase + BitVec.ofNat 32 (rowIndex s * (c.stride.toNat / 2))
  u : s.work.uPtr = c.uBase + BitVec.ofNat 32 ((rowIndex s + 1) / 2 * (c.stride.toNat / 4))
  v : s.work.vPtr = c.vBase + BitVec.ofNat 32 ((rowIndex s + 1) / 2 * (c.stride.toNat / 4))

theorem AtRow.withSchedule {c : Conversion} {s : State} (h : AtRow c s) (rest : List Turn) :
    AtRow c { s with schedule := rest } :=
  ⟨h.stride, h.pairs, h.src, h.luma, h.u, h.v⟩

theorem PointerInvariant.atRow {s : State} (h : PointerInvariant s) (hb : s.status.busy = true ∨ s.status.done = true) :
    ∃ c, s.conv = some c ∧ AtRow c s ∧ (s.status.done = true → s.work.pairCnt = s.work.pairsL) := by
  have h' := h hb
  cases hc : s.conv with
  | none => rw [hc] at h'; exact h'.elim
  | some c =>
    rw [hc] at h'
    obtain ⟨hstride, hpairs, hsrc, hluma, hu, hv, hdone⟩ := h'
    exact ⟨c, rfl, ⟨hstride, hpairs, hsrc, hluma, hu, hv⟩, hdone⟩

theorem AtRow.pointerInvariant {c : Conversion} {s : State} (hc : s.conv = some c) (h : AtRow c s)
    (hdone : s.status.done = true → s.work.pairCnt = s.work.pairsL) : PointerInvariant s := by
  intro _
  rw [hc]
  exact ⟨h.stride, h.pairs, h.src, h.luma, h.u, h.v, hdone⟩

theorem pointerInvariant_of_idle {s : State} (hb : s.status.busy = false) (hd : s.status.done = false) :
    PointerInvariant s := fun h =>
  absurd h (by simp [hb, hd])

/-- A pointer one row further on. -/
theorem pointer_advance (b : Addr) (r w : Nat) :
    b + BitVec.ofNat 32 (r * w) + BitVec.ofNat 32 w = b + BitVec.ofNat 32 ((r + 1) * w) := by
  rw [BitVec.add_assoc, ← BitVec.ofNat_add, Nat.succ_mul]

theorem rowStride_steps {c : Conversion} {s : State} (h : s.work.rowStride = c.stride) :
    s.work.rowStride = BitVec.ofNat 32 c.stride.toNat ∧ s.work.rowStride / 2#32 = BitVec.ofNat 32 (c.stride.toNat / 2)
    ∧ s.work.rowStride / 4#32 = BitVec.ofNat 32 (c.stride.toNat / 4) := by
  rw [h]
  exact ⟨by simp, BitVec.div_ofNat_eq _ (by decide), BitVec.div_ofNat_eq _ (by decide)⟩

theorem rowIndex_even {s : State} (hp : s.status.phase = false) : rowIndex s = 2 * s.work.pairCnt.toNat := by
  rw [rowIndex, hp]; rfl

theorem rowIndex_odd {s : State} (hp : s.status.phase = true) : rowIndex s = 2 * s.work.pairCnt.toNat + 1 := by
  rw [rowIndex, hp]; rfl

theorem rowIndex_advanceEven {s : State} (hp : s.status.phase = false) : rowIndex (advanceEven s) = rowIndex s + 1 := by
  rw [rowIndex_even hp]; rfl

theorem rowIndex_advanceOdd {s : State} (h : InRow s) (hp : s.status.phase = true) :
    rowIndex (advanceOdd s) = rowIndex s + 1 := by
  obtain ⟨hnat, -⟩ := pairCnt_succ h
  rw [rowIndex_odd hp]
  show 2 * (s.work.pairCnt + 1#32).toNat + 0 = _
  omega

theorem atRow_advanceEven {c : Conversion} {s : State} (h : AtRow c s) (hp : s.status.phase = false) :
    AtRow c (advanceEven s) := by
  obtain ⟨hs, hl, hq⟩ := rowStride_steps h.stride
  have heven := rowIndex_even hp
  have hhalf : (rowIndex s + 1 + 1) / 2 = (rowIndex s + 1) / 2 + 1 := by omega
  refine ⟨h.stride, h.pairs, ?_, ?_, ?_, ?_⟩ <;> rw [rowIndex_advanceEven hp, advanceEven_work]
  · rw [h.src, hs, pointer_advance]
  · rw [h.luma, hl, pointer_advance]
  · rw [h.u, hq, pointer_advance, hhalf]
  · rw [h.v, hq, pointer_advance, hhalf]

theorem atRow_advanceOdd {c : Conversion} {s : State} (hrow : InRow s) (h : AtRow c s) (hp : s.status.phase = true) :
    AtRow c (advanceOdd s) := by
  obtain ⟨hs, hl, -⟩ := rowStride_steps h.stride
  have hodd := rowIndex_odd hp
  have hhalf : (rowIndex s + 1 + 1) / 2 = (rowIndex s + 1) / 2 := by omega
  refine ⟨h.stride, h.pairs, ?_, ?_, ?_, ?_⟩ <;> rw [rowIndex_advanceOdd hrow hp, advanceOdd_work]
  · rw [h.src, hs, pointer_advance]
  · rw [h.luma, hl, pointer_advance]
  · rw [h.u, hhalf]
  · rw [h.v, hhalf]

/-- The pointer values do not depend on `col`. -/
theorem atRow_of_col {c : Conversion} {s t : State} {col : Word} (h : AtRow c s) (hstatus : t.status = s.status)
    (hwork : t.work = { s.work with col := col }) : AtRow c t := by
  have hrow : rowIndex t = rowIndex s := by rw [rowIndex, rowIndex, hstatus, hwork]
  refine ⟨?_, ?_, ?_, ?_, ?_, ?_⟩
  case refine_1 => rw [hwork]; exact h.stride
  case refine_2 => rw [hwork]; exact h.pairs
  case refine_3 => rw [hrow, hwork]; exact h.src
  case refine_4 => rw [hrow, hwork]; exact h.luma
  case refine_5 => rw [hrow, hwork]; exact h.u
  case refine_6 => rw [hrow, hwork]; exact h.v

theorem atRow_started {s t : State} (hg : geomCause s.build.strategy s.cfg.stride s.cfg.height = 0#5)
    (hwork : t.work = (latchFrame s).work) (hp : t.status.phase = false) : AtRow (latched s) t := by
  obtain ⟨-, -, -, heven, -⟩ := (geomCause_eq_zero_iff _ _ _).mp hg
  obtain ⟨hpairs, -⟩ := pairs_of_even heven
  rw [latchFrame_work] at hwork
  have hrow : rowIndex t = 0 := by rw [rowIndex_even hp, hwork]; rfl
  refine ⟨by rw [hwork]; rfl, ?_, ?_, ?_, ?_, ?_⟩
  case refine_1 =>
    rw [hwork]
    show 2 * (s.cfg.height / 2#32).toNat = s.cfg.height.toNat
    omega
  all_goals
    rw [hrow, hwork]
    simp [latched]

/-- Every step that the rules determine keeps the pointer values. -/
theorem pointerInvariant_step {s t : State} (hinv : StatusInvariant s) (hptr : PointerInvariant s) (hr : s.refused = none)
    (h : FrameStep s t) : PointerInvariant t := by
  cases h with
  | quiet hbuild hwork hconv hstatus hmem =>
    have hrow : rowIndex t = rowIndex s := by rw [rowIndex, rowIndex, hwork, hstatus]
    rw [PointerInvariant, hwork, hconv, hrow, hstatus]
    exact hptr
  | started hb hg hbuild hwork hstatus hconv =>
    exact (atRow_started hg hwork (by rw [hstatus])).pointerInvariant hconv fun h => by rw [hstatus] at h; cases h
  | failed hb hg hstatus => exact pointerInvariant_of_idle (by rw [hstatus]; exact hb) (by rw [hstatus])
  | cleared hb hstatus =>
    rw [acceptClear_status] at hstatus
    exact pointerInvariant_of_idle (by rw [hstatus]; exact hb) (by rw [hstatus])
  | units rest k hb hk hrun =>
    obtain ⟨c, hc, hat, -⟩ := hptr.atRow (.inl hb)
    have hrow := hinv.inRow hb
    obtain ⟨hstatus, -, hconv, j, -, hwork⟩ :=
      runUnits_position (s := { s with schedule := rest }) hr hrun
    exact (atRow_of_col hat hstatus hwork).pointerInvariant (hconv.trans hc) fun h =>
      Bool.noConfusion (hrow.done.symm.trans ((congrArg Status.done hstatus).symm.trans h))
  | evenEnd rest hb hd hp ht =>
    obtain ⟨c, hc, hat, -⟩ := hptr.atRow (.inl hb)
    rw [ht]
    exact (atRow_advanceEven (hat.withSchedule rest) hp).pointerInvariant hc fun h =>
      Bool.noConfusion ((hinv.inRow hb).done.symm.trans h)
  | oddEnd rest hb hd hp ht =>
    obtain ⟨c, hc, hat, -⟩ := hptr.atRow (.inl hb)
    have hrow := hinv.inRow hb
    rw [ht]
    refine (atRow_advanceOdd (hrow.withSchedule rest) (hat.withSchedule rest) hp).pointerInvariant hc fun h => ?_
    by_cases hl : lastPair { s with schedule := rest } = true
    · exact (lastPair_iff _).mp hl
    · rw [advanceOdd_of_more (Bool.eq_false_of_not_eq_true hl)] at h
      exact Bool.noConfusion (hrow.done.symm.trans h)
  | reset hstatus => exact pointerInvariant_of_idle (by rw [hstatus]; rfl) (by rw [hstatus]; rfl)

/-- Settles O45: each of the ways in which a step can change the frame keeps both. -/
theorem pointerValuesKept : Obligations.PointerValuesKept := by
  intro s t hinv h hd
  have hr := not_refused_of_determinate h hd
  obtain ⟨hstatus, hptr⟩ := hinv hr
  have hstep := step_frameStep h hd
  exact ⟨statusInvariant_step hstatus hr hstep, pointerInvariant_step hstatus hptr hr hstep⟩

/-- Settles O49: at reset nothing is in progress. -/
theorem invariantsHoldAtReset : Obligations.InvariantsHoldAtReset := fun _ =>
  ⟨⟨statusInvariant_reset rfl, pointerInvariant_of_idle rfl rfl, fun hb => Bool.noConfusion hb⟩,
    List.Pairwise.nil, fun _ hc => absurd hc List.not_mem_nil⟩

end Sys2Proof.Machine
end

section
/-! SUPPORT. The progress of a frame: where the row in progress lies in the regions of its conversion, how a stretch of a row
moves the frame on, and the frame law (42_frame_iterator.md R175, R180, R185; 20_memory.md R79). -/

namespace Sys2Proof.Machine

/-! ### The row in progress in its regions -/

theorem AtRow.rowIndex_lt {c : Conversion} {s : State} (hrow : InRow s) (h : AtRow c s) : rowIndex s < c.height.toNat := by
  have hpair := hrow.pair
  have hpairs := h.pairs
  unfold rowIndex
  split <;> omega

/-- The pair in progress is one of the conversion's. -/
theorem AtRow.pair_lt {c : Conversion} {s : State} (hrow : InRow s) (h : AtRow c s) :
    s.work.pairCnt.toNat < c.height.toNat / 2 := by
  have hpair := hrow.pair
  have hpairs := h.pairs
  omega

/-- The addresses of the next unit, by the row in progress and `col` (42_frame_iterator.md R183). -/
theorem AtRow.unitAddrs {c : Conversion} {s : State} (h : AtRow c s) :
    s.unitSrc = c.srcBase + BitVec.ofNat 32 (rowIndex s * c.stride.toNat + s.work.col.toNat)
    ∧ s.unitLuma = c.lumaBase + BitVec.ofNat 32 (rowIndex s * (c.stride.toNat / 2) + s.work.col.toNat / 2)
    ∧ s.unitU = c.uBase + BitVec.ofNat 32 ((rowIndex s + 1) / 2 * (c.stride.toNat / 4) + s.work.col.toNat / 4)
    ∧ s.unitV = c.vBase + BitVec.ofNat 32 ((rowIndex s + 1) / 2 * (c.stride.toNat / 4) + s.work.col.toNat / 4) := by
  have h2 := BitVec.div_ofNat_eq s.work.col (k := 2) (by decide)
  have h4 := BitVec.div_ofNat_eq s.work.col (k := 4) (by decide)
  have h1 : s.work.col = BitVec.ofNat 32 s.work.col.toNat := by simp
  refine ⟨?_, ?_, ?_, ?_⟩
  · rw [State.unitSrc, h.src, BitVec.ofNat_add, ← BitVec.add_assoc, ← h1]
  · rw [State.unitLuma, h.luma, h2, BitVec.add_assoc, ← BitVec.ofNat_add]
  · rw [State.unitU, h.u, h4, BitVec.add_assoc, ← BitVec.ofNat_add]
  · rw [State.unitV, h.v, h4, BitVec.add_assoc, ← BitVec.ofNat_add]

/-- A part of a row of a plane, as a part of the plane. -/
theorem plane_part_le {r rows w off m : Nat} (hr : r < rows) (h : off + m ≤ w) : r * w + off + m ≤ rows * w := by
  have h1 : r * w + w ≤ rows * w := by
    rw [← Nat.succ_mul]
    exact Nat.mul_le_mul_right w hr
  omega

/-- The next `d` source bytes of the row and the bytes they go to are in the regions of the conversion. -/
structure InRegions (c : Conversion) (chroma : Bool) (s : State) (d : Nat) : Prop where
  src : ∀ a, Region.contains ⟨s.unitSrc, d⟩ a = true → c.srcRegion.contains a = true
  luma : ∀ a, (lumaWindow s d).contains a = true → c.lumaRegion.contains a = true
  u : ∀ a, (uWindow chroma s d).contains a = true → c.uRegion.contains a = true
  v : ∀ a, (vWindow chroma s d).contains a = true → c.vRegion.contains a = true

/-- A chroma window of the row in progress lies in its plane; in an odd row it is empty. -/
theorem AtRow.chroma_in_region {c : Conversion} {s : State} (hrow : InRow s) (h : AtRow c s) {d : Nat}
    (hd : s.work.col.toNat + d ≤ c.stride.toNat) {b base : Addr}
    (hb : b = base + BitVec.ofNat 32 ((rowIndex s + 1) / 2 * (c.stride.toNat / 4) + s.work.col.toNat / 4)) {a : Addr}
    (ha : Region.contains ⟨b, chromaBytes (!s.status.phase) d⟩ a = true) :
    Region.contains ⟨base, c.height.toNat / 2 * (c.stride.toNat / 4)⟩ a = true := by
  cases hp : s.status.phase
  case true =>
    rw [hp] at ha
    obtain ⟨i, hi, -⟩ := (Region.contains_iff _ _).mp ha
    exact absurd hi (Nat.not_lt_zero i)
  case false =>
    have hpair := h.pair_lt hrow
    have heven := rowIndex_even hp
    rw [hp, hb] at ha
    exact Region.contains_part (plane_part_le (by omega) (by rw [Bool.not_false, chromaBytes_true]; omega)) ha

theorem AtRow.inRegions {c : Conversion} {s : State} (hrow : InRow s) (h : AtRow c s) {d : Nat}
    (hd : s.work.col.toNat + d ≤ c.stride.toNat) : InRegions c (!s.status.phase) s d := by
  obtain ⟨hsrc, hluma, hu, hv⟩ := h.unitAddrs
  have hlt := h.rowIndex_lt hrow
  constructor
  case src => rw [hsrc]; exact fun a ha => Region.contains_part (plane_part_le hlt hd) ha
  case luma => rw [lumaWindow, hluma]; exact fun a ha => Region.contains_part (plane_part_le hlt (by omega)) ha
  case u => exact fun a ha => h.chroma_in_region hrow hd hu ha
  case v => exact fun a ha => h.chroma_in_region hrow hd hv ha

/-- With the premises the windows of the row in progress are disjoint. -/
theorem AtRow.separate {c : Conversion} {s : State} (hrow : InRow s) (h : AtRow c s) (hp : c.Premises) {d : Nat}
    (hd : s.work.col.toNat + d ≤ c.stride.toNat) : Separate (!s.status.phase) s d := by
  have hin := h.inRegions hrow hd
  have hstride := c.stride.isLt
  exact ⟨mod_four_of_mod_unitBytes hrow.colMod, by rw [addrSpace]; omega, Region.disjoint_mono hin.src hin.luma hp.srcLuma,
    Region.disjoint_mono hin.src hin.u hp.srcU, Region.disjoint_mono hin.src hin.v hp.srcV,
    Region.disjoint_mono hin.luma hin.u hp.lumaU, Region.disjoint_mono hin.luma hin.v hp.lumaV,
    Region.disjoint_mono hin.u hin.v hp.uV⟩

/-! ### The converter's own steps -/

/-- Everything the converter's step can do in a run that is not refused: a unit, when the row is not done, or the row end
that PHASE names (30_encoding.md R107). -/
theorem converter_cases {s t : State} (hr : s.refused = none) (hb : s.status.busy = true)
    (h : exec (converterInstr s) s = .next t) :
    (rowDone s = false ∧ t = afterUnit (!s.status.phase) s.build.strategy.unitBytes s)
    ∨ (rowDone s = true ∧ s.status.phase = false ∧ t = advanceEven s)
    ∨ (rowDone s = true ∧ s.status.phase = true ∧ t = advanceOdd s) := by
  rw [converterInstr_eq, hb] at h
  cases hd : rowDone s
  case false =>
    rw [hd, exec_unit] at h
    exact .inl ⟨rfl, unitStep_next_of_not_refused hr h⟩
  case true =>
    rw [hd, stepOfBits_rowEnd] at h
    cases hp : s.status.phase <;> rw [hp] at h
    · exact .inr (.inl ⟨rfl, rfl, (Host.Outcome.next.inj h).symm.trans (converterEffect_of_not_refused hr _)⟩)
    · exact .inr (.inr ⟨rfl, rfl, (Host.Outcome.next.inj h).symm.trans (converterEffect_of_not_refused hr _)⟩)

/-- A unit that is left fits in the row. -/
theorem unit_fits {s : State} (h : InRow s) (hd : rowDone s = false) :
    s.work.col.toNat + s.build.strategy.unitBytes ≤ s.work.rowStride.toNat
    ∧ (s.work.col + BitVec.ofNat 32 s.build.strategy.unitBytes).toNat = s.work.col.toNat + s.build.strategy.unitBytes := by
  have := col_add_units h (unitsLeft_pos h hd)
  rwa [Nat.one_mul] at this

/-- The transactions of a unit are at its windows. -/
theorem portInside_afterUnit {c : Conversion} {chroma : Bool} {s : State} {n : Nat} (hn : n % 4 = 0)
    (hin : InRegions c chroma s n) : portInside c (afterUnit chroma n s).memPort := by
  have hsrc (k : Nat) (hk : k < n) : c.srcRegion.contains (s.unitSrc + BitVec.ofNat 32 k) = true :=
    hin.src _ (Region.contains_of_lt hk)
  have hluma (k : Nat) (hk : k < n / 2) : c.isOutput (s.unitLuma + BitVec.ofNat 32 k) = true := by
    rw [Conversion.isOutput, hin.luma _ (Region.contains_of_lt hk)]; rfl
  unfold portInside
  cases chroma
  · rw [afterUnit_odd_frame hn]
    simp only [List.forall_mem_cons, List.length_map, List.length_range]
    exact ⟨hsrc, hluma, fun x hx => absurd hx List.not_mem_nil⟩
  · rw [afterUnit_even_frame hn]
    simp only [List.forall_mem_cons, List.length_map, List.length_range]
    refine ⟨hsrc, hluma, fun k hk => ?_, fun k hk => ?_, fun x hx => absurd hx List.not_mem_nil⟩
    · rw [Conversion.isOutput, hin.u _ (Region.contains_of_lt hk), Bool.or_true]; rfl
    · rw [Conversion.isOutput, hin.v _ (Region.contains_of_lt hk), Bool.or_true]

/-- Settles O52: a unit's transactions are at its windows, which are in the regions; a row end has none. -/
theorem converterAccessesOnlyItsRegions : Obligations.ConverterAccessesOnlyItsRegions := by
  intro s t c hr hinv hptr hb hc h
  have hrow := hinv.inRow hb
  obtain ⟨c', hc', hat, -⟩ := hptr.atRow (.inl hb)
  obtain rfl := Option.some.inj (hc.symm.trans hc')
  rcases converter_cases hr hb h with ⟨hd, rfl⟩ | ⟨-, -, rfl⟩ | ⟨-, -, rfl⟩
  · obtain ⟨hfit, -⟩ := unit_fits hrow hd
    rw [hat.stride] at hfit
    exact portInside_afterUnit (unitBytes_mod _) (hat.inRegions hrow hfit)
  · exact fun x hx => absurd hx List.not_mem_nil
  · exact fun x hx => absurd hx List.not_mem_nil

/-- Settles O54: a unit moves `col` on, a row end the row; the last row end completes the frame. -/
theorem positionAlwaysAdvances : Obligations.PositionAlwaysAdvances := by
  intro s t hr hinv hb h
  have hrow := hinv.inRow hb
  rcases converter_cases hr hb h with ⟨hd, rfl⟩ | ⟨-, hp, rfl⟩ | ⟨-, hp, rfl⟩
  · obtain ⟨-, hnat⟩ := unit_fits hrow hd
    refine .inl (.inr ⟨rfl, ?_⟩)
    show s.work.col.toNat < (s.work.col + BitVec.ofNat 32 s.build.strategy.unitBytes).toNat
    have := unitBytes_pos s.build.strategy
    omega
  · exact .inl (.inl (by rw [rowIndex_advanceEven hp]; exact Nat.lt_succ_self _))
  · cases hl : lastPair s
    · exact .inl (.inl (by rw [rowIndex_advanceOdd hrow hp]; exact Nat.lt_succ_self _))
    · refine .inr ⟨?_, ?_, (lastPair_iff s).mp hl⟩ <;> rw [advanceOdd_of_last hl]

/-! ### The progress of a plane -/

/-- How far one plane has come: its byte `(k, j)` comes from the source row `rowStep·k` and the offset `colStep·j + lane` of
that row, and is written when the unit at `colStep·j` is processed (42_frame_iterator.md R180, R185). -/
def PlaneProgress (c : Conversion) (s : State) (base : Addr) (rows width rowStep colStep lane : Nat) : Prop :=
  ∀ k j, k < rows → j < width →
    let a := base + BitVec.ofNat 32 (k * width + j)
    (processed s (rowStep * k) (colStep * j) →
      s.byteAt a = c.sourceByte (rowStep * k * c.stride.toNat + colStep * j + lane))
    ∧ (¬ processed s (rowStep * k) (colStep * j) → s.byteAt a = Memory.read c.startMem a.toNat)

def LumaProgress (c : Conversion) (s : State) : Prop :=
  PlaneProgress c s c.lumaBase c.height.toNat (c.stride.toNat / 2) 1 2 0
def UProgress (c : Conversion) (s : State) : Prop :=
  PlaneProgress c s c.uBase (c.height.toNat / 2) (c.stride.toNat / 4) 2 4 1
def VProgress (c : Conversion) (s : State) : Prop :=
  PlaneProgress c s c.vBase (c.height.toNat / 2) (c.stride.toNat / 4) 2 4 3

/-- The source of the frame is as at START. -/
def SourceKept (c : Conversion) (s : State) : Prop :=
  ∀ i, i < c.height.toNat * c.stride.toNat → s.byteAt (c.srcBase + BitVec.ofNat 32 i) = c.sourceByte i

/-- The progress of a frame is that of its planes, with the source kept. -/
theorem frameProgressOf_iff (c : Conversion) (s : State) :
    FrameProgressOf c s ↔ SourceKept c s ∧ LumaProgress c s ∧ UProgress c s ∧ VProgress c s := by
  simp only [FrameProgressOf, SourceKept, LumaProgress, UProgress, VProgress, PlaneProgress, Nat.one_mul, Nat.add_zero]

/-- A plane's progress depends on its bytes and on which positions of the frame have been processed. -/
theorem PlaneProgress.congr {c : Conversion} {s t : State} {base : Addr} {rows width rowStep colStep lane : Nat}
    (h : PlaneProgress c s base rows width rowStep colStep lane)
    (hpos : ∀ k j, k < rows → j < width → (processed t (rowStep * k) (colStep * j) ↔ processed s (rowStep * k) (colStep * j)))
    (hmem : ∀ a, Region.contains ⟨base, rows * width⟩ a = true → t.byteAt a = s.byteAt a) :
    PlaneProgress c t base rows width rowStep colStep lane := by
  intro k j hk hj a
  rw [hpos k j hk hj, hmem a (Region.contains_of_lt (plane_offset_lt hk hj))]
  exact h k j hk hj

/-- A byte of a plane outside a part of one of its rows. -/
theorem plane_not_in_part {base : Addr} {rows width k j r off m : Nat} (hk : k < rows) (hj : j < width) (hr : r < rows)
    (hpart : off + m ≤ width) (hsize : rows * width ≤ addrSpace) (hout : ¬ (k = r ∧ off ≤ j ∧ j < off + m)) :
    Region.contains ⟨base + BitVec.ofNat 32 (r * width + off), m⟩ (base + BitVec.ofNat 32 (k * width + j)) = false := by
  rw [Region.contains_eq_false_iff]
  intro i hi e
  have h1 := plane_offset_lt hk hj
  have h2 := plane_offset_lt hr (show off + i < width by omega)
  rw [BitVec.add_assoc, ← BitVec.ofNat_add, BitVec.add_right_inj, Nat.add_assoc] at e
  have e' := congrArg BitVec.toNat e
  rw [BitVec.toNat_ofNat, BitVec.toNat_ofNat, Nat.mod_eq_of_lt (lt_of_lt_of_le h1 hsize),
    Nat.mod_eq_of_lt (lt_of_lt_of_le h2 hsize)] at e'
  have hrow := congrArg (· / width) e'
  have hcol := congrArg (· % width) e'
  simp only [plane_offset_div hj, plane_offset_mod hj, plane_offset_div (show off + i < width by omega),
    plane_offset_mod (show off + i < width by omega)] at hrow hcol
  exact hout ⟨hrow, by omega, by omega⟩

/-- Where the frame stands after `d` more source bytes of the row in progress. -/
structure MovedOn (s t : State) (d : Nat) : Prop where
  row : rowIndex t = rowIndex s
  col : t.work.col.toNat = s.work.col.toNat + d

theorem MovedOn.processed_iff {s t : State} {d : Nat} (h : MovedOn s t d) (r x : Nat) :
    processed t r x ↔ processed s r x ∨ (r = rowIndex s ∧ s.work.col.toNat ≤ x ∧ x < s.work.col.toNat + d) := by
  unfold processed
  rw [h.row, h.col]
  omega

/-- A plane that the row in progress writes to, after a stretch of it: the stretch's bytes are in the plane's row `r`, from
column `col / colStep` on. -/
theorem PlaneProgress.copied {c : Conversion} {s t : State} {base window : Addr} {rows width rowStep colStep lane d r : Nat}
    (h : PlaneProgress c s base rows width rowStep colStep lane) (hmoved : MovedOn s t d)
    (hstep : colStep = 2 ∨ colStep = 4) (hlane : lane < colStep) (hwidth : width = c.stride.toNat / colStep)
    (hcol : s.work.col.toNat % 4 = 0) (hd4 : d % 4 = 0) (hd : s.work.col.toNat + d ≤ c.stride.toNat)
    (hrow : rowStep * r = rowIndex s) (hpos : 0 < rowStep) (hr : r < rows) (hsize : rows * width ≤ addrSpace)
    (hwindow : window = base + BitVec.ofNat 32 (r * width + s.work.col.toNat / colStep))
    (hsource : ∀ p, p < d → s.byteAt (s.unitSrc + BitVec.ofNat 32 p)
      = c.sourceByte (rowIndex s * c.stride.toNat + (s.work.col.toNat + p)))
    (hcopy : ∀ i, i < d / colStep →
      t.byteAt (window + BitVec.ofNat 32 i) = s.byteAt (s.unitSrc + BitVec.ofNat 32 (colStep * i + lane)))
    (hother : ∀ a, Region.contains ⟨base, rows * width⟩ a = true → Region.contains ⟨window, d / colStep⟩ a = false →
      t.byteAt a = s.byteAt a) :
    PlaneProgress c t base rows width rowStep colStep lane := by
  intro k j hk hj a
  have hpart : s.work.col.toNat / colStep + d / colStep ≤ width := by
    rcases hstep with rfl | rfl <;> omega
  have hk_iff : rowStep * k = rowIndex s ↔ k = r := by
    rw [← hrow]; exact Nat.mul_right_inj (Nat.ne_of_gt hpos)
  have hj_iff : (s.work.col.toNat ≤ colStep * j ∧ colStep * j < s.work.col.toNat + d)
      ↔ (s.work.col.toNat / colStep ≤ j ∧ j < s.work.col.toNat / colStep + d / colStep) := by
    rcases hstep with rfl | rfl <;> omega
  rw [hmoved.processed_iff, hk_iff, hj_iff]
  by_cases hnew : k = r ∧ s.work.col.toNat / colStep ≤ j ∧ j < s.work.col.toNat / colStep + d / colStep
  · obtain ⟨rfl, hlo, hhi⟩ := hnew
    obtain ⟨i, rfl⟩ := Nat.exists_eq_add_of_le hlo
    have hi : i < d / colStep := by omega
    refine ⟨fun _ => ?_, fun hno => absurd (.inr ⟨rfl, hlo, hhi⟩) hno⟩
    have ha : a = window + BitVec.ofNat 32 i := by
      rw [hwindow, BitVec.add_assoc, ← BitVec.ofNat_add, Nat.add_assoc]
    have hoff : s.work.col.toNat + (colStep * i + lane) = colStep * (s.work.col.toNat / colStep + i) + lane := by
      rcases hstep with rfl | rfl <;> omega
    rw [ha, hcopy i hi, hsource _ (by rcases hstep with rfl | rfl <;> omega), hoff, hrow, Nat.add_assoc]
  · have hbyte : t.byteAt a = s.byteAt a :=
      hother a (Region.contains_of_lt (plane_offset_lt hk hj))
        (by rw [hwindow]; exact plane_not_in_part hk hj hr hpart hsize hnew)
    rw [hbyte]
    obtain ⟨hdone, hleft⟩ := h k j hk hj
    exact ⟨fun hp => hdone (hp.resolve_right hnew), fun hno => hleft fun hp => hno (.inl hp)⟩

/-- A plane that the row in progress does not write to. -/
theorem PlaneProgress.not_copied {c : Conversion} {s t : State} {base : Addr} {rows width rowStep colStep lane d : Nat}
    (h : PlaneProgress c s base rows width rowStep colStep lane) (hmoved : MovedOn s t d)
    (hrow : ∀ k, rowStep * k ≠ rowIndex s)
    (hmem : ∀ a, Region.contains ⟨base, rows * width⟩ a = true → t.byteAt a = s.byteAt a) :
    PlaneProgress c t base rows width rowStep colStep lane :=
  h.congr (fun k _ _ _ => (hmoved.processed_iff _ _).trans (or_iff_left fun ⟨e, _⟩ => hrow k e)) hmem

/-! ### The progress of a frame -/

/-- A stretch of the row in progress moves the frame on: its bytes are in their planes, and the others are untouched. -/
theorem FrameProgressOf.copied {c : Conversion} {s t : State} {d : Nat} (h : FrameProgressOf c s) (hp : c.Premises)
    (hrow : InRow s) (hat : AtRow c s) (hd4 : d % 4 = 0) (hd : s.work.col.toNat + d ≤ c.stride.toNat)
    (hc : Copied (!s.status.phase) s d t) : FrameProgressOf c t := by
  obtain ⟨hsource, hluma, hu, hv⟩ := (frameProgressOf_iff c s).mp h
  obtain ⟨hsrcAt, hlumaAt, huAt, hvAt⟩ := hat.unitAddrs
  have hin := hat.inRegions hrow hd
  have hlt := hat.rowIndex_lt hrow
  have hpair := hat.pair_lt hrow
  have hcol := mod_four_of_mod_unitBytes hrow.colMod
  have hstride := c.stride.isLt
  have hstatus : t.status = s.status := by rw [hc.frame]
  have hmoved : MovedOn s t d := by
    refine ⟨by rw [rowIndex, rowIndex, hstatus, hc.work], ?_⟩
    rw [hc.work, BitVec.toNat_add, BitVec.toNat_ofNat]
    omega
  have hread (p : Nat) (hpd : p < d) : s.byteAt (s.unitSrc + BitVec.ofNat 32 p)
      = c.sourceByte (rowIndex s * c.stride.toNat + (s.work.col.toNat + p)) := by
    rw [hsrcAt, BitVec.add_assoc, ← BitVec.ofNat_add, Nat.add_assoc]
    exact hsource _ (plane_offset_lt hlt (by omega))
  have hkeepLuma (a : Addr) (ha : c.lumaRegion.contains a = true) (hout : (lumaWindow s d).contains a = false) :
      t.byteAt a = s.byteAt a :=
    hc.other a hout (Region.not_contains_mono hin.u (Region.contains_false_of_disjoint hp.lumaU ha))
      (Region.not_contains_mono hin.v (Region.contains_false_of_disjoint hp.lumaV ha))
  have hkeepU (a : Addr) (ha : c.uRegion.contains a = true) (hout : (uWindow (!s.status.phase) s d).contains a = false) :
      t.byteAt a = s.byteAt a :=
    hc.other a (Region.not_contains_mono hin.luma (Region.not_contains_of_disjoint hp.lumaU ha)) hout
      (Region.not_contains_mono hin.v (Region.contains_false_of_disjoint hp.uV ha))
  have hkeepV (a : Addr) (ha : c.vRegion.contains a = true) (hout : (vWindow (!s.status.phase) s d).contains a = false) :
      t.byteAt a = s.byteAt a :=
    hc.other a (Region.not_contains_mono hin.luma (Region.not_contains_of_disjoint hp.lumaV ha))
      (Region.not_contains_mono hin.u (Region.not_contains_of_disjoint hp.uV ha)) hout
  refine (frameProgressOf_iff c t).mpr ⟨fun i hi => ?source, ?luma, ?u, ?v⟩
  case source =>
    have ha : c.srcRegion.contains (c.srcBase + BitVec.ofNat 32 i) = true := Region.contains_of_lt hi
    rw [← hsource i hi]
    exact hc.other _ (Region.not_contains_mono hin.luma (Region.contains_false_of_disjoint hp.srcLuma ha))
      (Region.not_contains_mono hin.u (Region.contains_false_of_disjoint hp.srcU ha))
      (Region.not_contains_mono hin.v (Region.contains_false_of_disjoint hp.srcV ha))
  case luma =>
    exact hluma.copied hmoved (.inl rfl) (by decide) rfl hcol hd4 hd (Nat.one_mul _) (by decide) hlt hp.lumaSize hlumaAt
      hread hc.luma hkeepLuma
  case u =>
    cases hphase : s.status.phase
    case true =>
      have hodd := rowIndex_odd hphase
      exact hu.not_copied hmoved (fun k => by omega) fun a ha => hkeepU a ha (by rw [hphase]; exact uWindow_odd_contains ..)
    case false =>
      have heven := rowIndex_even hphase
      rw [hphase] at hc hkeepU
      exact hu.copied hmoved (.inr rfl) (by decide) rfl hcol hd4 hd (r := (rowIndex s + 1) / 2) (by omega) (by decide)
        (by omega) hp.chromaSize huAt hread hc.u hkeepU
  case v =>
    cases hphase : s.status.phase
    case true =>
      have hodd := rowIndex_odd hphase
      exact hv.not_copied hmoved (fun k => by omega) fun a ha => hkeepV a ha (by rw [hphase]; exact vWindow_odd_contains ..)
    case false =>
      have heven := rowIndex_even hphase
      rw [hphase] at hc hkeepV
      exact hv.copied hmoved (.inr rfl) (by decide) rfl hcol hd4 hd (r := (rowIndex s + 1) / 2) (by omega) (by decide)
        (by omega) hp.chromaSize hvAt hread hc.v hkeepV

/-- The progress depends on the bytes of the regions and on which positions of the frame have been processed. -/
theorem FrameProgressOf.congr {c : Conversion} {s t : State} (h : FrameProgressOf c s)
    (hpos : ∀ r x, x < c.stride.toNat → (processed t r x ↔ processed s r x))
    (hmem : ∀ a, c.inRegions a = true → t.byteAt a = s.byteAt a) : FrameProgressOf c t := by
  obtain ⟨hsource, hluma, hu, hv⟩ := (frameProgressOf_iff c s).mp h
  refine (frameProgressOf_iff c t).mpr ⟨fun i hi => ?_, hluma.congr (fun k j _ hj => hpos _ _ (by omega)) fun a ha => ?_,
    hu.congr (fun k j _ hj => hpos _ _ (by omega)) fun a ha => ?_,
    hv.congr (fun k j _ hj => hpos _ _ (by omega)) fun a ha => ?_⟩
  · rw [← hsource i hi]
    have ha : c.srcRegion.contains (c.srcBase + BitVec.ofNat 32 i) = true := Region.contains_of_lt hi
    exact hmem _ (by rw [Conversion.inRegions, ha]; rfl)
  · have ha' : c.lumaRegion.contains a = true := ha
    exact hmem a (by simp [Conversion.inRegions, Conversion.isOutput, ha'])
  · have ha' : c.uRegion.contains a = true := ha
    exact hmem a (by simp [Conversion.inRegions, Conversion.isOutput, ha'])
  · have ha' : c.vRegion.contains a = true := ha
    exact hmem a (by simp [Conversion.inRegions, Conversion.isOutput, ha'])

/-- At the end of a row the next row's start is the same position of the frame. -/
theorem processed_rowEnd {c : Conversion} {s t : State} (hd : rowDone s = true) (hat : AtRow c s)
    (hrow : rowIndex t = rowIndex s + 1) (hcol : t.work.col = 0#32) (r : Nat) {x : Nat} (hx : x < c.stride.toNat) :
    processed t r x ↔ processed s r x := by
  have hend : s.work.col.toNat = c.stride.toNat := by rw [(rowDone_iff s).mp hd, hat.stride]
  unfold processed
  rw [hrow, hcol, hend, BitVec.toNat_zero]
  omega

theorem FrameProgressOf.evenEnd {c : Conversion} {s : State} (h : FrameProgressOf c s) (hat : AtRow c s)
    (hd : rowDone s = true) (hp : s.status.phase = false) : FrameProgressOf c (advanceEven s) :=
  h.congr (fun r _ hx => processed_rowEnd hd hat (rowIndex_advanceEven hp) rfl r hx) fun _ _ => rfl

theorem FrameProgressOf.oddEnd {c : Conversion} {s : State} (h : FrameProgressOf c s) (hrow : InRow s) (hat : AtRow c s)
    (hd : rowDone s = true) (hp : s.status.phase = true) : FrameProgressOf c (advanceOdd s) :=
  h.congr (fun r _ hx => processed_rowEnd hd hat (rowIndex_advanceOdd hrow hp) rfl r hx) fun _ _ => rfl

/-- At the frame start nothing has been processed, and memory is that at START. -/
theorem frameProgressOf_started {s t : State} (hwork : t.work = (latchFrame s).work) (hphase : t.status.phase = false)
    (hmem : t.mem = s.mem) : FrameProgressOf (latched s) t := by
  have hno (r x : Nat) : ¬ processed t r x := by
    rw [latchFrame_work] at hwork
    rw [processed, rowIndex_even hphase, hwork]
    simp
  have hread (a : Addr) : t.byteAt a = Memory.read (latched s).startMem a.toNat := by rw [State.byteAt, hmem]; rfl
  exact ⟨fun i _ => hread _, fun r i _ _ => ⟨fun hp => absurd hp (hno _ _), fun _ => hread _⟩,
    fun k j _ _ => ⟨fun hp => absurd hp (hno _ _), fun _ => hread _⟩,
    fun k j _ _ => ⟨fun hp => absurd hp (hno _ _), fun _ => hread _⟩⟩

/-! ### The frame invariant -/

/-- A run of units in a separate stretch of the row copies a part of it, whether or not a later unit is stuck. -/
theorem runUnits_copied {chroma : Bool} {n : Nat} (hn4 : n % 4 = 0) (hn : 0 < n) {s : State} {l : Nat}
    (hr : s.refused = none) (hsep : Separate chroma s l) :
    ∀ (k d : Nat) (t u : State), d + k * n ≤ l → d % 4 = 0 → Copied chroma s d t →
      runUnits n (unitRoute chroma) k t = .next u → ∃ j, j ≤ k ∧ Copied chroma s (d + j * n) u
  | 0, d, t, u, _, _, ht, h => ⟨0, Nat.le_refl 0, by obtain rfl := Host.Outcome.next.inj h; simpa using ht⟩
  | k + 1, d, t, u, hl, hd, ht, h => by
    have hstep (m : Nat) : d + n + m * n = d + (m + 1) * n := by ring
    have hk := hstep k
    have hb := hsep.bound
    have htr : t.refused = none := by rw [ht.frame]; exact hr
    have hunit : Copied chroma s (d + n) (afterUnit chroma n t) :=
      ht.trans (copied_afterUnit (hsep.later ht.work hd hn (by omega)) hn4 (by omega)) hsep hd hn4 hn (by omega)
    have heffect : converterEffect (unitDone n (unitData n t) (unitRoute chroma t (unitData n t))) t = afterUnit chroma n t :=
      converterEffect_of_not_refused htr _
    rcases runUnits_cases n (unitRoute chroma) k t with ⟨-, e⟩ | ⟨-, ⟨u', hu', e⟩ | ⟨-, e⟩⟩
    · rw [e] at h; cases h
    · obtain rfl := Host.Outcome.next.inj (e.symm.trans h)
      rw [heffect] at hu'
      obtain ⟨j, hj, hc⟩ := runUnits_copied hn4 hn hr hsep k (d + n) _ _ (by omega) (by omega) hunit hu'
      exact ⟨j + 1, Nat.succ_le_succ hj, hstep j ▸ hc⟩
    · obtain rfl := Host.Outcome.next.inj (e.symm.trans h)
      rw [heffect]
      exact ⟨1, Nat.succ_le_succ (Nat.zero_le k), by simpa using hunit⟩

/-- A conversion in progress in a run that is not refused: its row, its premises and how far its frame has come. -/
structure Running (c : Conversion) (s : State) : Prop where
  busy : s.status.busy = true
  inRow : InRow s
  atRow : AtRow c s
  premises : c.Premises
  progress : FrameProgressOf c s

theorem FrameReady.running {s : State} (h : FrameReady s) (hb : s.status.busy = true) (hr : s.refused = none) :
    ∃ c, s.conv = some c ∧ c.premisesHold = true ∧ Running c s := by
  obtain ⟨hinv, hptr, hframe⟩ := h
  obtain ⟨c, hc, hat, -⟩ := hptr.atRow (.inl hb)
  have hf := hframe hb hr
  rw [hc] at hf
  obtain ⟨hp, hprog⟩ := hf
  exact ⟨c, hc, hp, hb, hinv.inRow hb, hat, Conversion.premises_of hp, hprog⟩

theorem frameInvariant_of {c : Conversion} {t : State} (hc : t.conv = some c) (hp : c.premisesHold = true)
    (h : FrameProgressOf c t) : FrameInvariant t := by
  intro _ _
  rw [hc]
  exact ⟨hp, h⟩

theorem frameInvariant_of_idle {t : State} (hb : t.status.busy = false) : FrameInvariant t := fun h =>
  Bool.noConfusion (hb.symm.trans h)

/-- The turns still to come do not matter to the frame. -/
theorem FrameProgressOf.withSchedule {c : Conversion} {s : State} (h : FrameProgressOf c s) (rest : List Turn) :
    FrameProgressOf c { s with schedule := rest } :=
  h.congr (fun _ _ _ => Iff.rfl) fun _ _ => rfl

theorem Running.units {c : Conversion} {s t : State} (h : Running c s) (hr : s.refused = none) {k : Nat}
    (hk : k ≤ unitsLeft s)
    (hrun : runUnits s.build.strategy.unitBytes (unitRoute (!s.status.phase)) k s = .next t) : FrameProgressOf c t := by
  obtain ⟨hle, -⟩ := col_add_units h.inRow hk
  rw [h.atRow.stride] at hle
  have hG := unitBytes_mod s.build.strategy
  obtain ⟨j, hj, hc⟩ := runUnits_copied hG (unitBytes_pos _) hr (h.atRow.separate h.inRow h.premises hle) k 0 s t
    (by omega) rfl (Copied.refl _ s) hrun
  rw [Nat.zero_add] at hc
  have hjk : j * s.build.strategy.unitBytes ≤ k * s.build.strategy.unitBytes := Nat.mul_le_mul_right _ hj
  exact h.progress.copied h.premises h.inRow h.atRow (by rw [Nat.mul_mod, hG, Nat.mul_zero]) (by omega) hc

theorem Running.withSchedule {c : Conversion} {s : State} (h : Running c s) (rest : List Turn) :
    Running c { s with schedule := rest } :=
  ⟨h.busy, h.inRow.withSchedule rest, h.atRow.withSchedule rest, h.premises, h.progress.withSchedule rest⟩

/-- Every step that the rules determine keeps the progress of the frame. -/
theorem frameInvariant_step {s t : State} (hready : FrameReady s) (hr : s.refused = none) (h : FrameStep s t) :
    FrameInvariant t := by
  cases h with
  | quiet hbuild hwork hconv hstatus hmem =>
    intro htb htr
    have hb : s.status.busy = true := by rw [hstatus] at htb; exact htb
    obtain ⟨c, hc, hp, hrun⟩ := hready.running hb hr
    have hrow : rowIndex t = rowIndex s := by rw [rowIndex, rowIndex, hwork, hstatus]
    refine frameInvariant_of (hconv.trans hc) hp (hrun.progress.congr (fun r x _ => ?_) fun a ha => ?_) htb htr
    · rw [processed, processed, hrow, hwork]
    · exact hmem a ⟨hb, c, hc, ha⟩
  | started hb hg hbuild hwork hstatus hconv hmem hprem =>
    intro htb htr
    exact frameInvariant_of hconv (hprem htr) (frameProgressOf_started hwork (by rw [hstatus]) hmem) htb htr
  | failed hb hg hstatus => exact frameInvariant_of_idle (by rw [hstatus]; exact hb)
  | cleared hb hstatus => exact frameInvariant_of_idle (by rw [hstatus, acceptClear_status]; exact hb)
  | reset hstatus => exact frameInvariant_of_idle (by rw [hstatus]; rfl)
  | units rest k hb hk hrun =>
    obtain ⟨c, hc, hp, hrunning⟩ := hready.running hb hr
    obtain ⟨-, -, hconv, -⟩ := runUnits_position (s := { s with schedule := rest }) hr hrun
    exact frameInvariant_of (hconv.trans hc) hp
      ((hrunning.withSchedule rest).units hr (units_le_left hrunning.inRow hk) hrun)
  | evenEnd rest hb hd hp ht =>
    obtain ⟨c, hc, hprem, hrunning⟩ := hready.running hb hr
    have hrest := hrunning.withSchedule rest
    rw [ht]
    exact frameInvariant_of hc hprem (hrest.progress.evenEnd hrest.atRow hd hp)
  | oddEnd rest hb hd hp ht =>
    obtain ⟨c, hc, hprem, hrunning⟩ := hready.running hb hr
    have hrest := hrunning.withSchedule rest
    rw [ht]
    exact frameInvariant_of hc hprem (hrest.progress.oddEnd hrest.inRow hrest.atRow hd hp)

/-- Settles O46: a step into a run that is not refused is one that the rules determine. -/
theorem frameProgressKept : Obligations.FrameProgressKept := by
  intro s t hready h htb htr
  have hd := determinate_of_not_refused (s := s) htr
  exact frameInvariant_step hready (not_refused_of_determinate h hd) (step_frameStep h hd) htb htr

/-! ### The frame law -/

/-- A frame all of whose rows have been processed is converted. -/
theorem FrameProgressOf.written {c : Conversion} {t : State} (h : FrameProgressOf c t) (hrow : rowIndex t = c.height.toNat) :
    FrameWritten c t := by
  have hdone {r x : Nat} (hr : r < c.height.toNat) : processed t r x := .inl (by rw [hrow]; exact hr)
  obtain ⟨-, hluma, hu, hv⟩ := h
  refine ⟨fun r i hr hi => ?_, fun k j hk hj => ⟨?_, ?_⟩⟩
  · obtain ⟨hwritten, -⟩ := hluma r i hr hi
    exact hwritten (hdone hr)
  · obtain ⟨hwritten, -⟩ := hu k j hk hj
    exact hwritten (hdone (by omega))
  · obtain ⟨hwritten, -⟩ := hv k j hk hj
    exact hwritten (hdone (by omega))

theorem AtRow.finalRegisters {c : Conversion} {t : State} (h : AtRow c t) (hrow : rowIndex t = c.height.toNat)
    (hpair : t.work.pairCnt = t.work.pairsL) : finalRegisters c t := by
  have hpairs := h.pairs
  have hhalf : (c.height.toNat + 1) / 2 = c.height.toNat / 2 := by omega
  refine ⟨?_, ?_, ?_, ?_, ?_⟩
  · rw [h.src, hrow]
  · rw [h.luma, hrow]
  · rw [h.u, hrow, hhalf]
  · rw [h.v, hrow, hhalf]
  · apply BitVec.eq_of_toNat_eq
    obtain ⟨hdiv, -⟩ := pairs_of_even (h := c.height) (by omega)
    rw [hpair, hdiv]
    omega

/-- After the end of the last pair the row number is `h`. -/
theorem rowIndex_of_last {c : Conversion} {s : State} (hrow : InRow s) (h : AtRow c s) (hp : s.status.phase = true)
    (hl : lastPair s = true) : rowIndex (advanceOdd s) = c.height.toNat := by
  have hpair : (advanceOdd s).work.pairCnt = (advanceOdd s).work.pairsL := (lastPair_iff s).mp hl
  rw [rowIndex_even (by rw [advanceOdd_of_last hl]), hpair]
  exact (atRow_advanceOdd hrow h hp).pairs

/-- The end of the last pair completes the frame. -/
theorem Running.completed {c : Conversion} {s : State} (h : Running c s) (hd : rowDone s = true)
    (hp : s.status.phase = true) (hl : lastPair s = true) :
    FrameWritten c (advanceOdd s) ∧ Machine.finalRegisters c (advanceOdd s) := by
  have hrow := rowIndex_of_last h.inRow h.atRow hp hl
  exact ⟨(h.progress.oddEnd h.inRow h.atRow hd hp).written hrow,
    (atRow_advanceOdd h.inRow h.atRow hp).finalRegisters hrow ((lastPair_iff s).mp hl)⟩

/-- Settles O47: only the end of the last pair sets DONE while BUSY. -/
theorem completedFrameIsConverted : Obligations.CompletedFrameIsConverted := by
  intro s t hready h hb hdone htr
  have hdet := determinate_of_not_refused (s := s) htr
  have hr := not_refused_of_determinate h hdet
  obtain ⟨c, hc, -, hrunning⟩ := hready.running hb hr
  have hbusy {p : Prop} (hno : s.status.busy = false) : p := Bool.noConfusion (hno.symm.trans hb)
  have hundone {p : Prop} (hsame : t.status.done = s.status.done) : p :=
    Bool.noConfusion (hrunning.inRow.done.symm.trans (hsame.symm.trans hdone))
  cases step_frameStep h hdet with
  | quiet hbuild hwork hconv hstatus hmem => exact hundone (by rw [hstatus])
  | started hno => exact hbusy hno
  | failed hno => exact hbusy hno
  | cleared hno => exact hbusy hno
  | units rest k _ hk hrun =>
    obtain ⟨hstatus, -⟩ := runUnits_position (s := { s with schedule := rest }) hr hrun
    exact hundone (congrArg Status.done hstatus)
  | evenEnd rest _ hd hp ht => exact hundone (by rw [ht]; rfl)
  | reset hstatus => rw [hstatus] at hdone; exact Bool.noConfusion hdone
  | oddEnd rest _ hd hp ht =>
    have hrest := hrunning.withSchedule rest
    cases hl : lastPair { s with schedule := rest }
    case false => exact hundone (by rw [ht, advanceOdd_of_more hl])
    case true =>
      obtain ⟨hwritten, hfinal⟩ := hrest.completed hd hp hl
      rw [ht]
      exact ⟨c, hc, hc, by rw [advanceOdd_of_last hl], hwritten, hfinal⟩

end Sys2Proof.Machine
end

section
/-! SUPPORT. A whole frame with no host turn: how many converter steps it takes, what it leaves, and that the strategies agree
(42_frame_iterator.md R187, R188, R189). -/

namespace Sys2Proof.Machine

/-! ### A step of the converter with no turn left -/

/-- How many converter steps the frame in progress still takes: a row is its units and its end, and of the row in progress the
units left and the end (42_frame_iterator.md R188). -/
def stepsLeft (c : Conversion) (s : State) : Nat :=
  (c.height.toNat - 1 - rowIndex s) * (c.stride.toNat / s.build.strategy.unitBytes + 1) + unitsLeft s + 1

/-- The frame of `c` in progress in a run that is not refused, with no turn of the host left and everything admitted; `b` is
the build and `ign` the CMD_IGNORED of the start. -/
structure Converting (b : Build) (ign : Bool) (c : Conversion) (s : State) : Prop where
  ready : FrameReady s
  busy : s.status.busy = true
  conv : s.conv = some c
  refused : s.refused = none
  schedule : s.schedule = []
  build : s.build = b
  cmdIgnored : s.status.cmdIgnored = ign
  admitted : ConversionAdmitted b c
  outside : ∀ a, c.isOutput a = false → s.byteAt a = Memory.read c.startMem a.toNat

/-- The working registers after a complete frame (42_frame_iterator.md R183). -/
def finalWork (c : Conversion) : WorkRegs :=
  { srcPtr := c.srcBase + BitVec.ofNat 32 (c.height.toNat * c.stride.toNat)
    lumaPtr := c.lumaBase + BitVec.ofNat 32 (c.height.toNat * (c.stride.toNat / 2))
    uPtr := c.uBase + BitVec.ofNat 32 (c.height.toNat / 2 * (c.stride.toNat / 4))
    vPtr := c.vBase + BitVec.ofNat 32 (c.height.toNat / 2 * (c.stride.toNat / 4))
    pairCnt := c.height / 2#32, rowStride := c.stride, pairsL := c.height / 2#32, col := 0#32 }

/-- The frame of `c` complete: idle with DONE, converted, and with every byte outside the planes as at START. -/
structure Converted (b : Build) (ign : Bool) (c : Conversion) (t : State) : Prop where
  status : t.status = { busy := false, done := true, err := false, cmdIgnored := ign, phase := false, geomCause := 0#5,
                        errCode := 0#4 }
  refused : t.refused = none
  schedule : t.schedule = []
  build : t.build = b
  written : FrameWritten c t
  final : finalRegisters c t
  work : t.work = finalWork c
  outside : ∀ a, c.isOutput a = false → t.byteAt a = Memory.read c.startMem a.toNat

theorem isRead_stepOfBits (busy isEnd phase vec : Bool) : isRead (stepOfBits busy isEnd phase vec) = false := by
  revert busy isEnd phase vec
  decide

/-- With no turn left a step is the converter's. -/
theorem step_of_converter {s t : State} (hr : s.refused = none) (hs : s.schedule = [])
    (h : exec (converterInstr s) s = .next t) : step s = .next t := by
  rw [step_of_exec (fetch_of_nil hs) h, settle_none hr,
    hostLearns_of_not_read (by rw [converterInstr_eq]; exact isRead_stepOfBits ..)]

/-- The windows of the row in progress are admitted when the regions are. -/
theorem InRegions.admitted {c : Conversion} {chroma : Bool} {s : State} {d : Nat} (h : InRegions c chroma s d)
    (hadm : ConversionAdmitted s.build c) : Admitted chroma s d := by
  have hread (a : Addr) (ha : c.srcRegion.contains a = true) : s.build.admitsByte false a = true := by
    obtain ⟨hr, -⟩ := hadm a
    exact hr ha
  have hwrite (a : Addr) (ha : c.isOutput a = true) : s.build.admitsByte true a = true := by
    obtain ⟨-, hw⟩ := hadm a
    exact hw ha
  refine ⟨admits_of_window fun a ha => hread a (h.src a ha), admits_of_window fun a ha => hwrite a ?_,
    admits_of_window fun a ha => hwrite a ?_, admits_of_window fun a ha => hwrite a ?_⟩
  · rw [Conversion.isOutput, h.luma a ha]; rfl
  · rw [Conversion.isOutput, h.u a ha, Bool.or_true]; rfl
  · rw [Conversion.isOutput, h.v a ha, Bool.or_true]

/-- A byte outside the planes is outside the windows of the row in progress, so a unit leaves it. -/
theorem InRegions.afterUnit_outside {c : Conversion} {chroma : Bool} {s : State} {n : Nat} (h : InRegions c chroma s n)
    (hn : n % 4 = 0) {a : Addr} (ha : c.isOutput a = false) : (afterUnit chroma n s).byteAt a = s.byteAt a := by
  obtain ⟨⟨hl, hu⟩, hv⟩ : (c.lumaRegion.contains a = false ∧ c.uRegion.contains a = false) ∧ c.vRegion.contains a = false := by
    rwa [Conversion.isOutput, Bool.or_eq_false_iff, Bool.or_eq_false_iff] at ha
  exact afterUnit_other hn (Region.not_contains_mono h.luma hl) (Region.not_contains_mono h.u hu)
    (Region.not_contains_mono h.v hv)

theorem Converting.running {b : Build} {ign : Bool} {c : Conversion} {s : State} (h : Converting b ign c s) :
    Running c s := by
  obtain ⟨c', hc, -, hrun⟩ := h.ready.running h.busy h.refused
  obtain rfl := Option.some.inj (h.conv.symm.trans hc)
  exact hrun

/-- A step of the converter keeps what the frame claims need. -/
theorem Converting.ready_step {b : Build} {ign : Bool} {c : Conversion} {s t : State} (h : Converting b ign c s)
    (hstep : step s = .next t) (ht : t.refused = none) : FrameReady t := by
  obtain ⟨hinv, hptr, -⟩ := h.ready
  have hframe := step_frameStep hstep (determinate_of_not_refused ht)
  exact ⟨statusInvariant_step hinv h.refused hframe, pointerInvariant_step hinv hptr h.refused hframe,
    frameInvariant_step h.ready h.refused hframe⟩

/-! ### How many steps are left -/

theorem unitsLeft_of_done {s : State} (hd : rowDone s = true) : unitsLeft s = 0 := by
  rw [unitsLeft, (rowDone_iff s).mp hd, Nat.sub_self, Nat.zero_div]

theorem unitsLeft_afterUnit {s : State} (h : InRow s) (hd : rowDone s = false) (chroma : Bool) :
    unitsLeft s = unitsLeft (afterUnit chroma s.build.strategy.unitBytes s) + 1 := by
  obtain ⟨hfit, hnat⟩ := unit_fits h hd
  have hle : s.build.strategy.unitBytes ≤ s.work.rowStride.toNat - s.work.col.toNat := by omega
  show (s.work.rowStride.toNat - s.work.col.toNat) / s.build.strategy.unitBytes
    = (s.work.rowStride.toNat - (s.work.col + BitVec.ofNat 32 s.build.strategy.unitBytes).toNat)
        / s.build.strategy.unitBytes + 1
  rw [hnat, Nat.div_eq_sub_div (unitBytes_pos _) hle, Nat.sub_sub]

/-- A unit is one of the steps left. -/
theorem stepsLeft_afterUnit {c : Conversion} {s : State} (h : InRow s) (hd : rowDone s = false) (chroma : Bool) :
    stepsLeft c s = stepsLeft c (afterUnit chroma s.build.strategy.unitBytes s) + 1 := by
  show (c.height.toNat - 1 - rowIndex s) * (c.stride.toNat / s.build.strategy.unitBytes + 1) + unitsLeft s + 1
    = (c.height.toNat - 1 - rowIndex s) * (c.stride.toNat / s.build.strategy.unitBytes + 1)
      + unitsLeft (afterUnit chroma s.build.strategy.unitBytes s) + 1 + 1
  rw [unitsLeft_afterUnit h hd chroma]
  omega

/-- A row end that is not the last is one of the steps left. -/
theorem stepsLeft_rowEnd {c : Conversion} {s t : State} (hd : rowDone s = true) (hat : AtRow c t)
    (hrow : rowIndex t = rowIndex s + 1) (hlt : rowIndex t < c.height.toNat) (hcol : t.work.col = 0#32)
    (hbuild : t.build = s.build) : stepsLeft c s = stepsLeft c t + 1 := by
  have hleft : unitsLeft t = c.stride.toNat / s.build.strategy.unitBytes := by
    rw [unitsLeft, hat.stride, hcol, hbuild]; rfl
  obtain ⟨m, hm⟩ := Nat.exists_eq_add_of_lt hlt
  have h1 : c.height.toNat - 1 - rowIndex s = m + 1 := by omega
  have h2 : c.height.toNat - 1 - rowIndex t = m := by omega
  rw [stepsLeft, stepsLeft, unitsLeft_of_done hd, hleft, hbuild, h1, h2]
  ring

/-- The last row end is the last step left. -/
theorem stepsLeft_last {c : Conversion} {s : State} (hrow : InRow s) (hat : AtRow c s) (hd : rowDone s = true)
    (hp : s.status.phase = true) (hl : lastPair s = true) : stepsLeft c s = 1 := by
  have hlast := rowIndex_of_last hrow hat hp hl
  rw [rowIndex_advanceOdd hrow hp] at hlast
  have hzero : c.height.toNat - 1 - rowIndex s = 0 := by omega
  rw [stepsLeft, unitsLeft_of_done hd, hzero, Nat.zero_mul]

/-! ### One step of a frame -/

/-- A unit of the frame: its transactions are admitted, and the frame goes on. -/
theorem Converting.step_unit {b : Build} {ign : Bool} {c : Conversion} {s : State} (h : Converting b ign c s)
    (hd : rowDone s = false) :
    ∃ t, step s = .next t ∧ Converting b ign c t ∧ stepsLeft c s = stepsLeft c t + 1 := by
  have hrow := h.running.inRow
  have hat := h.running.atRow
  obtain ⟨hfit, -⟩ := unit_fits hrow hd
  rw [hat.stride] at hfit
  have hin := hat.inRegions hrow hfit
  obtain ⟨hs, hl, hu, hv⟩ := hin.admitted (by rw [h.build]; exact h.admitted)
  have hexec : exec (converterInstr s) s = .next (afterUnit (!s.status.phase) s.build.strategy.unitBytes s) := by
    rw [converterInstr_eq, h.busy, hd, exec_unit]
    exact unitStep_next_of_admits (unitBytes_mod _) h.refused (by simp [hs, hl, hu, hv])
  have hstep := step_of_converter h.refused h.schedule hexec
  refine ⟨_, hstep, ⟨h.ready_step hstep h.refused, h.busy, h.conv, h.refused, h.schedule, h.build, h.cmdIgnored,
    h.admitted, fun a ha => ?_⟩, stepsLeft_afterUnit hrow hd _⟩
  rw [hin.afterUnit_outside (unitBytes_mod _) ha]
  exact h.outside a ha

/-- The converter's step at the end of a row. -/
theorem Converting.step_rowEnd {b : Build} {ign : Bool} {c : Conversion} {s : State} (h : Converting b ign c s)
    (hd : rowDone s = true) : step s = .next (if s.status.phase then advanceOdd s else advanceEven s) := by
  refine step_of_converter h.refused h.schedule ?_
  rw [converterInstr_eq, h.busy, hd, stepOfBits_rowEnd]
  cases s.status.phase <;> exact congrArg Host.Outcome.next (converterEffect_of_not_refused h.refused _)

theorem Converting.step_evenEnd {b : Build} {ign : Bool} {c : Conversion} {s : State} (h : Converting b ign c s)
    (hd : rowDone s = true) (hp : s.status.phase = false) :
    ∃ t, step s = .next t ∧ Converting b ign c t ∧ stepsLeft c s = stepsLeft c t + 1 := by
  have hstep := h.step_rowEnd hd
  rw [hp] at hstep
  have hnext : Converting b ign c (advanceEven s) :=
    ⟨h.ready_step hstep h.refused, h.busy, h.conv, h.refused, h.schedule, h.build, h.cmdIgnored, h.admitted, h.outside⟩
  exact ⟨_, hstep, hnext, stepsLeft_rowEnd hd hnext.running.atRow (rowIndex_advanceEven hp)
    (hnext.running.atRow.rowIndex_lt hnext.running.inRow) rfl rfl⟩

theorem Converting.step_oddEnd {b : Build} {ign : Bool} {c : Conversion} {s : State} (h : Converting b ign c s)
    (hd : rowDone s = true) (hp : s.status.phase = true) (hl : lastPair s = false) :
    ∃ t, step s = .next t ∧ Converting b ign c t ∧ stepsLeft c s = stepsLeft c t + 1 := by
  have hstep := h.step_rowEnd hd
  rw [hp] at hstep
  have hstatus := advanceOdd_of_more hl
  have hnext : Converting b ign c (advanceOdd s) :=
    ⟨h.ready_step hstep h.refused, by rw [hstatus]; exact h.busy, h.conv, h.refused, h.schedule, h.build,
      by rw [hstatus]; exact h.cmdIgnored, h.admitted, h.outside⟩
  exact ⟨_, hstep, hnext, stepsLeft_rowEnd hd hnext.running.atRow (rowIndex_advanceOdd h.running.inRow hp)
    (hnext.running.atRow.rowIndex_lt hnext.running.inRow) rfl rfl⟩

/-- The registers of a complete frame, all of them. -/
theorem work_eq_finalWork {c : Conversion} {t : State} (hat : AtRow c t) (hfinal : finalRegisters c t)
    (hpair : t.work.pairCnt = t.work.pairsL) (hcol : t.work.col = 0#32) : t.work = finalWork c := by
  obtain ⟨hsrc, hluma, hu, hv, hcnt⟩ := hfinal
  have heta : t.work = ⟨t.work.srcPtr, t.work.lumaPtr, t.work.uPtr, t.work.vPtr, t.work.pairCnt, t.work.rowStride,
    t.work.pairsL, t.work.col⟩ := rfl
  rw [heta, hsrc, hluma, hu, hv, ← hpair, hcnt, hat.stride, hcol]
  rfl

/-- The last row end of the frame: one step was left, and the frame is complete. -/
theorem Converting.step_last {b : Build} {ign : Bool} {c : Conversion} {s : State} (h : Converting b ign c s)
    (hd : rowDone s = true) (hp : s.status.phase = true) (hl : lastPair s = true) :
    stepsLeft c s = 1 ∧ ∃ t, step s = .next t ∧ Converted b ign c t := by
  have hrun := h.running
  have hstep := h.step_rowEnd hd
  rw [hp] at hstep
  obtain ⟨hwritten, hfinal⟩ := hrun.completed hd hp hl
  obtain ⟨⟨hcode, hcause, -⟩, -⟩ := h.ready
  have herr := hrun.inRow.err
  rw [herr] at hcode hcause
  refine ⟨stepsLeft_last hrun.inRow hrun.atRow hd hp hl, _, hstep, ?_, h.refused, h.schedule, h.build, hwritten, hfinal,
    work_eq_finalWork (atRow_advanceOdd hrun.inRow hrun.atRow hp) hfinal ((lastPair_iff s).mp hl) rfl, h.outside⟩
  rw [if_pos rfl, advanceOdd_of_last hl]
  have hcode' : s.status.errCode = 0#4 := Classical.not_not.mp (mt hcode.mpr Bool.false_ne_true)
  have hcause' : s.status.geomCause = 0#5 := Classical.not_not.mp (mt hcause.mp Bool.false_ne_true)
  simp only [herr, hcode', hcause', h.cmdIgnored]

/-- What a converter step of the frame answers: the frame goes on with one step less, or, when one step was left, it is
complete. -/
theorem Converting.step_cases {b : Build} {ign : Bool} {c : Conversion} {s : State} (h : Converting b ign c s) :
    (∃ t, step s = .next t ∧ Converting b ign c t ∧ stepsLeft c s = stepsLeft c t + 1)
    ∨ (stepsLeft c s = 1 ∧ ∃ t, step s = .next t ∧ Converted b ign c t) := by
  cases hd : rowDone s
  case false => exact .inl (h.step_unit hd)
  case true =>
    cases hp : s.status.phase
    case false => exact .inl (h.step_evenEnd hd hp)
    case true =>
      cases hl : lastPair s
      case false => exact .inl (h.step_oddEnd hd hp hl)
      case true => exact .inr (h.step_last hd hp hl)

/-! ### A whole frame -/

theorem run_succ_of_step {M : Host.Core} {s t : M.State} (h : M.step s = .next t) (k : Nat) :
    M.run (k + 1) s = M.run k t := by
  simp only [Host.Core.run, h]

/-- A frame in progress is busy for the steps left and no longer, and is then complete. -/
theorem Converting.run {b : Build} {ign : Bool} {c : Conversion} :
    ∀ (m : Nat) (s : State), Converting b ign c s → stepsLeft c s = m →
      (∀ k, k < m → ∃ t : State, Host.Core.run Sys2Proof.core k s = .next t ∧ t.status.busy = true)
      ∧ ∃ t : State, Host.Core.run Sys2Proof.core m s = .next t ∧ Converted b ign c t
  | 0, s, _, hm => absurd hm (Nat.succ_ne_zero _)
  | m + 1, s, h, hm => by
    rcases h.step_cases with ⟨t, ht, hnext, hleft⟩ | ⟨hone, t, ht, hdone⟩
    · obtain ⟨hbusy, u, hu, hcu⟩ := Converting.run m t hnext (by omega)
      refine ⟨fun k hk => ?_, u, (run_succ_of_step (M := Sys2Proof.core) ht m).trans hu, hcu⟩
      cases k with
      | zero => exact ⟨s, rfl, h.busy⟩
      | succ k =>
        obtain ⟨v, hv, hvb⟩ := hbusy k (Nat.lt_of_succ_lt_succ hk)
        exact ⟨v, (run_succ_of_step (M := Sys2Proof.core) ht k).trans hv, hvb⟩
    · obtain rfl : m = 0 := by omega
      refine ⟨fun k hk => ?_, t, run_succ_of_step (M := Sys2Proof.core) ht 0, hdone⟩
      obtain rfl : k = 0 := by omega
      exact ⟨s, rfl, h.busy⟩

/-- A START of a machine that is ready begins a frame that nothing disturbs. -/
theorem converting_of_start {s f : State} {lo : BitVec 2} (h : ReadyToConvert s) (hf : exec (.start lo) s = .next f) :
    Converting s.build s.status.cmdIgnored (latched s) f
    ∧ stepsLeft (latched s) f = frameSteps s.build.strategy s.cfg.stride s.cfg.height := by
  obtain ⟨hb, hr, hsched, hshown, hg, hp, hadm⟩ := h
  obtain rfl := Host.Outcome.next.inj ((exec_start_of_idle hb lo).symm.trans hf)
  have hstatus := acceptStart_status_of_pass hg
  have hwork := acceptStart_work_of_pass hg
  have hconv := acceptStart_conv_of_pass hg
  have hphase : (acceptStart s).status.phase = false := by rw [hstatus]
  have hrefused : (acceptStart s).refused = none := by
    have hshown' : cacheDutiesShown (clearOutcome s) (latched (clearOutcome s)) = true := hshown
    have hp' : (latched (clearOutcome s)).premisesHold = true := hp
    rw [acceptStart_of_pass hg, frameStart_refused, if_pos hshown', if_pos hp', clearOutcome_refused, hr]
  have hat := atRow_started hg hwork hphase
  have hready : FrameReady (acceptStart s) :=
    ⟨statusInvariant_started hg (acceptStart_build s) hwork hstatus,
      hat.pointerInvariant hconv fun hd => by rw [hstatus] at hd; exact Bool.noConfusion hd,
      frameInvariant_of hconv hp (frameProgressOf_started hwork hphase (acceptStart_mem s))⟩
  refine ⟨⟨hready, by rw [hstatus], hconv, hrefused, by rw [acceptStart_frame]; exact hsched, acceptStart_build s,
    by rw [hstatus], hadm, fun a _ => by rw [State.byteAt, acceptStart_mem]; rfl⟩, ?_⟩
  have hrow : rowIndex (acceptStart s) = 0 := by rw [rowIndex_even hphase, hwork]; rfl
  have hleft : unitsLeft (acceptStart s) = s.cfg.stride.toNat / s.build.strategy.unitBytes := by
    rw [unitsLeft, hwork, acceptStart_build]; rfl
  obtain ⟨-, hheight, -⟩ := (geomCause_eq_zero_iff _ _ _).mp hg
  obtain ⟨m, hm⟩ : ∃ m, s.cfg.height.toNat = m + 1 :=
    Nat.exists_eq_succ_of_ne_zero fun e => hheight (BitVec.eq_of_toNat_eq e)
  show (s.cfg.height.toNat - 1 - rowIndex (acceptStart s))
    * (s.cfg.stride.toNat / (acceptStart s).build.strategy.unitBytes + 1) + unitsLeft (acceptStart s) + 1 = _
  rw [hrow, hleft, acceptStart_build, frameSteps, hm, Nat.add_sub_cancel, Nat.sub_zero]
  ring

/-- Settles O55: from the frame start on, every step is one of the steps left. -/
theorem frameCompletesInStatedSteps : Obligations.FrameCompletesInStatedSteps := by
  intro s f lo hready hf n
  obtain ⟨hconv, hleft⟩ := converting_of_start hready hf
  obtain ⟨hbusy, t, ht, hdone⟩ := hconv.run n f hleft
  have hidle : t.status.busy = false := by rw [hdone.status]
  refine ⟨hbusy, t, ht, hidle, by rw [hdone.status], ?_, hdone.written, hdone.final⟩
  rw [observed, if_pos ((runEnded_iff t).mpr (.inr ⟨hdone.schedule, hidle⟩)), settle_none hdone.refused]

/-! ### The strategies -/

/-- A byte of a plane is at some row and column of it. -/
theorem plane_coordinates {base a : Addr} {rows width : Nat} (h : Region.contains ⟨base, rows * width⟩ a = true) :
    ∃ k j, k < rows ∧ j < width ∧ a = base + BitVec.ofNat 32 (k * width + j) := by
  obtain ⟨i, hi, rfl⟩ := (Region.contains_iff _ _).mp h
  have hw : 0 < width := Nat.pos_of_ne_zero fun e => by simp [e] at hi
  exact ⟨i / width, i % width, (Nat.div_lt_iff_lt_mul hw).mpr hi, Nat.mod_lt i hw, by rw [Nat.div_add_mod']⟩

/-- What a complete frame leaves is fixed by the conversion: every byte, the working registers and STATUS. -/
theorem Converted.byteAt_eq {b b' : Build} {ign ign' : Bool} {c : Conversion} {t u : State} (ht : Converted b ign c t)
    (hu : Converted b' ign' c u) (a : Addr) : t.byteAt a = u.byteAt a := by
  obtain ⟨htl, htc⟩ := ht.written
  obtain ⟨hul, huc⟩ := hu.written
  cases hl : c.lumaRegion.contains a
  case true =>
    obtain ⟨r, i, hr, hi, rfl⟩ := plane_coordinates hl
    exact (htl r i hr hi).trans (hul r i hr hi).symm
  case false =>
    cases hua : c.uRegion.contains a
    case true =>
      obtain ⟨k, j, hk, hj, rfl⟩ := plane_coordinates hua
      obtain ⟨htu, -⟩ := htc k j hk hj
      obtain ⟨huu, -⟩ := huc k j hk hj
      exact htu.trans huu.symm
    case false =>
      cases hva : c.vRegion.contains a
      case true =>
        obtain ⟨k, j, hk, hj, rfl⟩ := plane_coordinates hva
        obtain ⟨-, htv⟩ := htc k j hk hj
        obtain ⟨-, huv⟩ := huc k j hk hj
        exact htv.trans huv.symm
      case false =>
        have hout : c.isOutput a = false := by rw [Conversion.isOutput, hl, hua, hva]; rfl
        rw [ht.outside a hout, hu.outside a hout]

/-- Settles O56: both builds latch the same conversion, and a complete frame is fixed by it. -/
theorem strategiesAgree : Obligations.StrategiesAgree := by
  intro s p v lo onBuild hrp hrv hp hv
  obtain ⟨hconvP, hleftP⟩ := converting_of_start hrp hp
  obtain ⟨hconvV, hleftV⟩ := converting_of_start hrv hv
  obtain ⟨-, tp, htp, hdoneP⟩ := hconvP.run _ p hleftP
  obtain ⟨-, tv, htv, hdoneV⟩ := hconvV.run _ v hleftV
  exact ⟨tp, tv, htp, htv, hdoneP.byteAt_eq hdoneV, hdoneP.work.trans hdoneV.work.symm,
    hdoneP.status.trans hdoneV.status.symm⟩

end Sys2Proof.Machine
end
